-- ==== Sys2Proof/Word.lean ====
section
/-! DEFINITION. The words of the host bus: 32 bits, bytes of 8 bits (00_scope, 0.5). -/

namespace Sys2Proof

/-- A word of the 32-bit host bus; also an address on it (00_scope, 0.5). -/
abbrev Word := BitVec 32

/-- A byte of memory (00_scope, 0.5). -/
abbrev Byte := BitVec 8

end Sys2Proof
end

