-- ==== Sys2Proof/Syntax.lean ====
section
/-! DEFINITION. The commands and events that reach the block, one constructor per row of spec/opcode_table.json. -/

namespace Sys2Proof

/-- The direction of a legal encoder transition (R48). -/
inductive Direction where
  | forward
  | reverse
deriving DecidableEq, Repr

/-- How a burst read ends: with its words, in address order, or with a bus error, which delivers no data (R146). -/
inductive ReadResult where
  | data (words : List Word)
  | busError
deriving DecidableEq, Repr

/-- How a transaction on one word ends: with the word it read, or with a bus error (R146). -/
inductive WordResult where
  | data (word : Word)
  | busError
deriving DecidableEq, Repr

/-- How a single write ends (R143). -/
inductive WriteResult where
  | done
  | busError
deriving DecidableEq, Repr

/-- The two job slots (R137). -/
inductive SlotId where
  | slot0
  | slot1
deriving DecidableEq, Repr

/-- The rows of spec/opcode_table.json. Operands are the model's; the table names none. -/
inductive Instr where
  /-- START (R160): CONTROL written with 1. -/
  | start
  /-- STOP (R161): CONTROL written with 2. -/
  | stop
  /-- HALT (R163): CONTROL written with 3. -/
  | halt
  /-- SKIP (R164): CONTROL written with 4. -/
  | skip
  /-- LOOK (R165): CONTROL written with 5. -/
  | look
  /-- RESET (R171): CONTROL written with 15. -/
  | reset
  /-- CHAIN_WRITE (R126). -/
  | chainWrite (value : Word)
  /-- ATTN_WRITE (R168). -/
  | attnWrite (value : Word)
  /-- ATTN_EN_WRITE (R169). -/
  | attnEnWrite (value : Word)
  /-- REGISTER_WRITE (R158): a write of `bytes` bytes at `offset` of the register window. -/
  | registerWrite (offset : Word) (bytes : Nat) (value : Word)
  /-- PIN_RESET_ASSERT (R170): the RESET input goes active. -/
  | pinResetAssert
  /-- PIN_RESET_RELEASE (R170): the RESET input goes inactive. -/
  | pinResetRelease
  /-- ENCODER_STEP (R50): one line of ENC_A, ENC_B changes. -/
  | encoderStep (direction : Direction)
  /-- ILLEGAL_TRANSITION (R49): both lines change. -/
  | illegalTransition
  /-- MARK_ACTIVE_EDGE (R56). -/
  | markActiveEdge
  /-- MARK_INACTIVE_EDGE (R59). -/
  | markInactiveEdge
  /-- HEAD_PRESENT_INACTIVE (R109). -/
  | headPresentInactive
  /-- HEAD_PRESENT_ACTIVE (R111). -/
  | headPresentActive
  /-- STILL_TIMER_EXPIRY (R54). -/
  | stillTimerExpiry
  /-- WARMUP_EXPIRY (R108). -/
  | warmupExpiry
  /-- FIRE_PULSE (R115): the shift timer of a row shift expires. -/
  | firePulse
  /-- TICKLE_PULSE (R119): the shift timer of a tickle shift expires. -/
  | ticklePulse
  /-- TICKLE_IDLE_EXPIRY (R117). -/
  | tickleIdleExpiry
  /-- PERIOD_TIMER_EXPIRY (R118). -/
  | periodTimerExpiry
  /-- POLL_TIMER_EXPIRY (R129). -/
  | pollTimerExpiry
  /-- DIVIDER_EXPIRY (R76). -/
  | dividerExpiry
  /-- ENTRY_READ_DONE (R27): the 8 words of a layout entry, and the level of BATCH at that moment (R12). -/
  | entryReadDone (result : ReadResult) (batch : Bool)
  /-- ROW_READ_DONE (R29). -/
  | rowReadDone (result : ReadResult)
  /-- OVERLAY_READ_DONE (R32). -/
  | overlayReadDone (result : ReadResult)
  /-- TABLE_READ_DONE (R37): the 5 words of a drop table. -/
  | tableReadDone (result : ReadResult)
  /-- SETUP_BLOCK_READ_DONE (R39): the 16 words of a setup block. -/
  | setupBlockReadDone (result : ReadResult)
  /-- MAP_READ_DONE (R40): the 40 words of a nozzle map. -/
  | mapReadDone (result : ReadResult)
  /-- LINK_READ_DONE (R130): the LINK word of the anchor. -/
  | linkReadDone (result : WordResult)
  /-- STATE_READ_DONE (R131): the state word of the linked record. -/
  | stateReadDone (result : WordResult)
  /-- HEADER_READ_DONE (R132): the 12 words of the linked record's header. -/
  | headerReadDone (result : ReadResult)
  /-- TAKE_EXCHANGE_DONE (R132): the state word as the locked exchange read it. -/
  | takeExchangeDone (result : WordResult)
  /-- RESULT_WRITE_DONE (R142). -/
  | resultWriteDone (result : WriteResult)
  /-- STATE_UPDATE_DONE (R142): the state word as the locked field update read it. -/
  | stateUpdateDone (result : WordResult)
  /-- RELEASE_DONE (R141): the state word as the locked field update read it. -/
  | releaseDone (result : WordResult)
  /-- PORT_GRANT (R145). -/
  | portGrant
  /-- CHAIN_LOOK (R128). -/
  | chainLook
  /-- HELD_ITEM_ENTER (R28). -/
  | heldItemEnter
  /-- STAGE_WAIT_END (R37, R39). -/
  | stageWaitEnd
  /-- FREE_START (R75). -/
  | freeStart
  /-- END_TAKEN (R73). -/
  | endTaken
  /-- COMPLETION_BEGIN (R140): of the faulted job in `slot`. -/
  | completionBegin (slot : SlotId)
  /-- DRAIN_END (R162). -/
  | drainEnd
deriving DecidableEq, Repr

end Sys2Proof
end

