-- ==== Sys2Proof/Decode.lean ====
section
/-! DEFINITION. Words that spell a command. No row of spec/opcode_table.json gives bits (every row's list of fields
is empty and none has fixed bits), so no word spells one. -/

namespace Sys2Proof

/-- The command that a word of `nbits` bits spells by the table's bits: none, since no row gives any. -/
def decodeTableWord (_nbits _w : Nat) : Option Instr := none

end Sys2Proof
end

