-- ==== Sys2Proof/Config.lean ====
section
/-! DEFINITION. The fixed quantities of the part (00_scope, TABLE 0-3) and the values the manual leaves free. -/

namespace Sys2Proof.Config

/-- Nozzles of the head (TABLE 0-3). -/
abbrev nozzles : Nat := 640

/-- Nozzles of one tickle group; there are 16 groups (TABLE 0-3, R119). -/
abbrev groupSize : Nat := 40

/-- Items the row queue holds at most (R42). -/
abbrev queueCapacity : Nat := 8

/-- Entries the mark queue holds at most (R62). -/
abbrev markCapacity : Nat := 8

/-- Contexts the repeat stack holds at most (R14). -/
abbrev stackDepth : Nat := 4

/-- The value a read of ID returns (R158). -/
abbrev idValue : Word := 0x06402C01#32

/-- Bytes of a record header; entries and the setup block stand behind it (R1, R147). -/
abbrev headerBytes : Nat := 48

/-- Bytes of one layout entry (R1). -/
abbrev entryBytes : Nat := 32

/-- The largest value of a 16-bit count held as a number, the width of a mark (R57). -/
abbrev widthLimit : Nat := 65535

/-- Shift duration in µs by LINK_RATE (TABLE 6-3). -/
def shiftDuration (linkRate : Nat) : Nat := 10 * 2 ^ linkRate

/-- FREE VALUE (log 9). Two write tasks that arrive together are added in either order (R141). The n-th free value
says whether the first named of the two stands first. -/
opaque firstNamedFirst : Nat → Bool

/-- FREE VALUE (log 10). The clocks of HL_CLK already given at a moment of a shift, such as its abort (R172): how far
it has come is a matter of time, which the model leaves out. Only values up to 321 mean anything; larger ones are cut to
321. -/
opaque clocksAtAbort : Nat → Nat

/-- FREE VALUE (log 10). The level of HL_CLK while a shift is in flight (R172): its clocks are a matter of time. -/
opaque clockLevel : Nat → Bool

end Sys2Proof.Config
end

