-- ==== Sys2Proof/Machine/State.lean ====
section
/-! DEFINITION. The state of the PL-640, as plain data, and its value right after reset. Each field's docstring cites
the rule or table of spec/ that names it; INVENTORY.md lists them all with their reset values. -/

namespace Sys2Proof.Machine

/-! ### Control and attention (chapter 9) -/

/-- The engine state (R157). -/
inductive EngineState where
  | stopped | running | draining | abandoning | faulted
deriving DecidableEq, Repr

/-- The cause of the last chain fault (R136, TABLE 7-4). -/
inductive ChainCause where
  | none | linkMisaligned | readBus | staleState | writeBus
deriving DecidableEq, Repr

/-- The control block (R157 to R169). -/
structure Control where
  /-- The engine state (R157). -/
  engine : EngineState
  /-- The last CONTROL or CHAIN write was refused (R159). -/
  refused : Bool
  /-- The eight attention flags, at the bits of TABLE 10-8 (R167). -/
  attn : BitVec 8
  /-- The eight attention enables, at the same bits (R169). -/
  attnEn : BitVec 8
  /-- The cause of the last chain fault (R136). -/
  chainCause : ChainCause
deriving DecidableEq, Repr

/-- A timer holds the interval it was loaded with while it runs (00_scope 0.5). How much of the interval has passed is
not modelled (log 4). -/
inductive Timer where
  | stopped
  | running (interval : Nat)
deriving DecidableEq, Repr

/-- Whether the timer runs. A timer that is stopped does not expire (R129). -/
def Timer.runs : Timer → Bool
  | .stopped => false
  | .running _ => true

/-! ### The record walker (chapter 7) -/

/-- The walker state (TABLE 7-3). -/
inductive WalkerState where
  | idle | waiting | looking
deriving DecidableEq, Repr

/-- What the walker keeps of a record header between the header read and the take (R132, TABLE 7-1). -/
structure Header where
  kind : BitVec 2
  entries : Nat
  notify : Bool
  strict : Bool
deriving DecidableEq, Repr

/-- How far the look in progress has come (R130 to R135). -/
inductive LookStage where
  /-- No look is in progress. -/
  | none
  /-- The anchor's LINK is being read (R130). -/
  | link
  /-- The state word of the record at `linked` is being read (R131). -/
  | state (linked : Word)
  /-- The header of the record at `linked` is being read (R132). -/
  | header (linked : Word)
  /-- A take is in progress: the exchange on the record at `linked` has been issued (R132). -/
  | exchange (linked : Word) (header : Header)
  /-- A record has been skipped and the look waits for the release of the anchor before it (R134). -/
  | releaseWait
  /-- The engine has left RUNNING and the look ends when its read ends (R135). -/
  | discarding
deriving DecidableEq, Repr

/-- The record walker (TABLE 7-3). -/
structure Walker where
  state : WalkerState
  lookOwed : Bool
  pollTimer : Timer
  pollInterval : Nat
  anchor : Word
  stage : LookStage
deriving DecidableEq, Repr

/-! ### The record writer and the memory port (chapter 7) -/

/-- A task of the record writer (R141). -/
inductive WriteTask where
  /-- The completion of the job in `slot`, with EPOS as it stood when the completion began (R142). -/
  | completion (slot : SlotId) (endPosition : Word)
  /-- The release of the record at `record` (R125). -/
  | release (record : Word)
deriving DecidableEq, Repr

/-- The record writer (R141): its tasks, the one in progress at the head, and how many result words of a completion
at the head have been written. -/
structure Writer where
  list : List WriteTask
  written : Nat
deriving DecidableEq, Repr

/-- The blocks that request the memory port (R144). -/
inductive Requester where
  | builder | writer | walker
deriving DecidableEq, Repr

/-- The transactions of TABLE 7-7, by what they are for. -/
inductive TxKind where
  | entryRead | rowRead | overlayRead | tableRead | setupBlockRead | mapRead
  | linkRead | stateRead | headerRead | takeExchange
  | resultWrite | stateUpdate | release
deriving DecidableEq, Repr

/-- One transaction of the memory port (R144). -/
structure Transaction where
  kind : TxKind
  address : Word
  /-- Its length in words (TABLE 7-7). -/
  words : Nat
  /-- The word a single write writes; 0 for the others. -/
  value : Word
  /-- Clear when its requester no longer wants its outcome and will discard it (R45, R135, R136). -/
  wanted : Bool
deriving DecidableEq, Repr

/-- The memory port and its arbiter (R144, R145). -/
structure Port where
  /-- The transaction in progress. -/
  current : Option Transaction
  builderReq : Option Transaction
  writerReq : Option Transaction
  walkerReq : Option Transaction
  /-- The builder's request was already waiting when the last transaction was granted (R145). -/
  builderWaited : Bool
deriving DecidableEq, Repr

/-! ### The job slots (chapter 7) -/

/-- The phase of a held job (R138). -/
inductive Phase where
  | building | built | completing
deriving DecidableEq, Repr

/-- The job fault codes (TABLE 7-6). -/
inductive FaultCode where
  | headerInvalid | entryIllegal | repeatUnmatched | repeatDepth | emptyPass | fetchBus | setupRange
  | underrun | overspeed | headLost | reverseLimit | cancelled | halted
deriving DecidableEq, Repr

/-- The result counters of a slot (TABLE 7-5). Each saturates. -/
structure Counts where
  rowsFired : BitVec 32
  productsStarted : BitVec 16
  productsMissed : BitVec 16
  underruns : BitVec 16
  overspeeds : BitVec 16
  substitutions : BitVec 32
  lostDots : BitVec 32
  marksShort : BitVec 16
  marksLong : BitVec 16
  marksClose : BitVec 16
  marksDropped : BitVec 16
  outerPasses : BitVec 32
deriving DecidableEq, Repr

/-- Every counter 0, as at the take (R137). -/
def Counts.zero : Counts :=
  ⟨0#32, 0#16, 0#16, 0#16, 0#16, 0#32, 0#32, 0#16, 0#16, 0#16, 0#16, 0#32⟩

/-- The MODEL's exact account of a job's ROW items, for R47 (log 17). The part keeps no such numbers. -/
structure RowAccount where
  emitted : Nat
  pulsed : Nat
  discarded : Nat
deriving DecidableEq, Repr

/-- A held job (TABLE 7-5). The take order stands in `Slots.older`. -/
structure Job where
  record : Word
  /-- KIND as the header holds it: PRINT 1, SETUP 2 (R123, R133). -/
  kind : BitVec 2
  entries : Nat
  notify : Bool
  strict : Bool
  phase : Phase
  /-- The first fault taken and its fault entry index (R139). -/
  fault : Option (FaultCode × Nat)
  counts : Counts
  account : RowAccount
deriving DecidableEq, Repr

/-- The two job slots and the order of taking (R137). -/
structure Slots where
  slot0 : Option Job
  slot1 : Option Job
  /-- The slot of the oldest job when both slots hold one. -/
  older : SlotId
deriving DecidableEq, Repr

/-! ### Rows, items and the row queue (chapter 2) -/

/-- What a ROW item holds for one nozzle (TABLE 2-5): level, overlay value, covered mark. -/
structure Dot where
  level : BitVec 4
  overlay : BitVec 2
  covered : Bool
deriving DecidableEq, Repr

/-- A nozzle of a blank row, or outside an image (R9, R31). -/
def Dot.blank : Dot := ⟨0#4, 0#2, false⟩

/-- The picture of one row: the BLANK flag and one dot for each of the 640 nozzles in nozzle order (TABLE 2-5). -/
structure Row where
  blank : Bool
  dots : List Dot
deriving DecidableEq, Repr

/-- The items of the row queue, each tagged with its job's slot (TABLE 2-6). `finish` is the END item. -/
inductive Item where
  | row (slot : SlotId) (row : Row)
  | hold (slot : SlotId)
  | swap (slot : SlotId)
  | setup (slot : SlotId)
  | finish (slot : SlotId)
deriving DecidableEq, Repr

/-- The slot an item is tagged with (R42). -/
def Item.slot : Item → SlotId
  | .row x _ => x
  | .hold x => x
  | .swap x => x
  | .setup x => x
  | .finish x => x

/-! ### Setup parameters and the staging area (chapter 8) -/

/-- The state of one nozzle (R101): GOOD 0, WEAK 1, OUT 2. -/
inductive NozzleState where
  | good | weak | out
deriving DecidableEq, Repr

/-- The polarity of MARK (R55): ACTIVE_HIGH 0, ACTIVE_LOW 1. -/
inductive MarkEdge where
  | activeHigh | activeLow
deriving DecidableEq, Repr

/-- The eighteen parameters as a setup block holds them (TABLE 8-1, TABLE 10-4). -/
structure SetupParams where
  pitch : Nat
  pitchTrim : Nat
  printDelay : Word
  markEdge : Nat
  markMin : Nat
  markMax : Nat
  markGap : Nat
  reverseLimit : Nat
  stillTime : Nat
  tickleIdle : Nat
  ticklePeriod : Nat
  tickleCadence : Nat
  tickleGroups : BitVec 16
  warmupTime : Nat
  linkRate : Nat
  levelMask : Nat
  pollInterval : Nat
  mapAddress : Word
deriving DecidableEq, Repr

/-- The staging area (R150). The staged map of the drop mapper is the map it holds (R101). -/
inductive Staging where
  | empty
  | block (params : SetupParams)
  | blockAndMap (params : SetupParams) (map : List NozzleState)
deriving DecidableEq, Repr

/-! ### The builder (chapters 1 and 2) -/

/-- The builder states (TABLE 2-1). -/
inductive BuilderState where
  | free | walking | fetching | waitRoom | waitStage
deriving DecidableEq, Repr

/-- A repeat context (TABLE 1-5). COUNT is `none` when FOREVER. -/
structure RepeatContext where
  openIndex : Nat
  closeIndex : Nat
  count : Option Nat
  pass : Nat
  emitted : Bool
deriving DecidableEq, Repr

/-- Words 0 to 4 of a layout entry; words 5 to 7 are unused in every kind (TABLE 10-3). -/
structure Entry where
  w0 : Word
  w1 : Word
  w2 : Word
  w3 : Word
  w4 : Word
deriving DecidableEq, Repr

/-- The fields of an IMAGE entry (TABLE 1-2) and its flags. -/
structure ImageFields where
  src : Word
  stride : Nat
  depth : Nat
  firstBit : Nat
  count : Nat
  nozzle : Nat
  width : Nat
  reverse : Bool
  opaqueFlag : Bool
deriving DecidableEq, Repr

/-- The fields of an OVERLAY_EXT entry (TABLE 1-3). -/
structure OverlayFields where
  src : Word
  stride : Nat
  depth : Nat
  firstBit : Nat
  nozzle : Nat
  width : Nat
  rowFirst : Nat
  rows : Nat
deriving DecidableEq, Repr

/-- What the builder is in the middle of. It goes with the builder state: WALKING acts on it next, FETCHING waits for
its read, WAIT_ROOM waits to emit its item, WAIT_STAGE waits to begin its read. -/
inductive BuildTask where
  /-- Nothing: the builder is FREE. -/
  | none
  /-- The entry at the walk index is to be walked (R27). -/
  | entry
  /-- The IMAGE with EXT at the walk index, whose next slot is being read (R7). -/
  | extension (image : Entry)
  /-- The REPEAT_OPEN at the walk index, whose CLOSE slot is being read (R18). -/
  | closeSlot (repeatOpen : Entry)
  /-- Print-order row `row` of an image, with its overlay if it has one (R29). -/
  | image (fields : ImageFields) (overlay : Option OverlayFields) (row : Nat)
  /-- The overlay read of print-order row `row`, whose image row is already on the nozzles (R32). -/
  | overlay (fields : ImageFields) (overlay : OverlayFields) (row : Nat) (dots : List Dot)
  /-- Row `row` of a BLANK of `count` rows (R9). -/
  | blank (row count : Nat)
  /-- The HOLD of a WAIT_MARK (R36). -/
  | hold
  /-- The table at `src` (R37). -/
  | table (src : Word)
  /-- The END item (R21, R41). -/
  | finish
  /-- The setup block of a setup job (R39). -/
  | setupBlock
  /-- The nozzle map named by a setup block in range (R40). -/
  | setupMap (params : SetupParams)
  /-- The SETUP item (R41). -/
  | setupItem
deriving DecidableEq, Repr

/-- The builder (R2, R25). -/
structure Builder where
  state : BuilderState
  job : Option SlotId
  /-- The walk index; ENTRIES once the last entry is passed (R2, R17, log 35). -/
  index : Nat
  /-- The repeat stack, innermost context first (R14). -/
  stack : List RepeatContext
  task : BuildTask
  /-- The assembled item held in WAIT_ROOM (R28). -/
  held : Option Item
  /-- A read that is not yet requested, because a discarded read is outstanding (R26). -/
  want : Option Transaction
  /-- The slot of the job whose abandoned read is still outstanding (R45). -/
  orphan : Option SlotId
deriving DecidableEq, Repr

/-- The builder FREE, with nothing outstanding (R25). -/
def Builder.reset : Builder := ⟨.free, none, 0, [], .none, none, none, none⟩

/-! ### The position tracker (chapter 3) -/

/-- The levels of ENC_A and ENC_B (R48); `true` is high. -/
structure LineState where
  a : Bool
  b : Bool
deriving DecidableEq, Repr

/-- The web state (R54). -/
inductive WebState where
  | still | moving
deriving DecidableEq, Repr

/-- The settings a measurement captures at its leading edge (R56). -/
structure MarkSettings where
  edge : MarkEdge
  min : Nat
  max : Nat
  gap : Nat
  delay : Word
deriving DecidableEq, Repr

/-- The tracker settings (TABLE 3-5). -/
structure TrackerSettings where
  mark : MarkSettings
  reverseLimit : Nat
  stillTime : Nat
deriving DecidableEq, Repr

/-- The qualifier (TABLE 3-3). -/
inductive Qualifier where
  | waiting
  | measuring (leading : Word) (width : Nat) (captured : MarkSettings)
  | jammed (edge : MarkEdge)
deriving DecidableEq, Repr

/-- The position tracker (TABLE 3-1). -/
structure Tracker where
  line : LineState
  epos : Word
  debt : Nat
  web : WebState
  stillTimer : Timer
  qualifier : Qualifier
  /-- The previous leading position, if there is one (R59). -/
  previous : Option Word
  /-- The mark queue: due positions, head first (R62). -/
  marks : List Word
  settings : TrackerSettings
deriving DecidableEq, Repr

/-! ### The firing section (chapter 4) -/

/-- The print state (R70). -/
inductive PrintState where
  | out | into
deriving DecidableEq, Repr

/-- The firing section (TABLE 4-2). The divider is `none` while stopped. -/
structure Firing where
  print : PrintState
  divider : Option Nat
  trimIndex : Nat
  pitch : Nat
  pitchTrim : Nat
deriving DecidableEq, Repr

/-! ### The drop mapper (chapter 5) -/

/-- An entry of a drop table (R91). -/
structure DropEntry where
  good : BitVec 2
  weak : BitVec 2
deriving DecidableEq, Repr

/-- The two drop-table banks (TABLE 5-1). -/
inductive BankId where
  | a | b
deriving DecidableEq, Repr

/-- The drop mapper (TABLE 5-1); the staged map stands in the staging area. -/
structure Mapper where
  bankA : List DropEntry
  bankB : List DropEntry
  active : BankId
  levelMask : BitVec 4
  /-- The active nozzle map, in nozzle order (R101). -/
  map : List NozzleState
deriving DecidableEq, Repr

/-- The reset table (TABLE 5-3): image entries for levels 0 to 15, then overlay entries for values 0 to 3. -/
def resetTable : List DropEntry :=
  [⟨0#2, 1#2⟩] ++ List.replicate 5 ⟨1#2, 2#2⟩ ++ List.replicate 5 ⟨2#2, 3#2⟩ ++ List.replicate 5 ⟨3#2, 3#2⟩ ++
    [⟨0#2, 1#2⟩, ⟨1#2, 2#2⟩, ⟨2#2, 3#2⟩, ⟨3#2, 3#2⟩]

/-! ### The head link (chapter 6) -/

/-- The head state (TABLE 6-2). -/
inductive HeadState where
  | off | warming | ready | lost
deriving DecidableEq, Repr

/-- The shift state and the shift in flight (TABLE 6-1, R113). -/
inductive Shift where
  | idle
  /-- A row shift: 640 drop codes, the slot the ROW item carried, substitutions and lost dots (R114). -/
  | row (codes : List (BitVec 2)) (slot : SlotId) (substitutions lostDots : Nat)
  /-- A tickle shift: for each nozzle whether the pattern names it (R119). -/
  | tickle (pattern : List Bool)
deriving DecidableEq, Repr

/-- The head link settings (TABLE 6-5). -/
structure HeadSettings where
  warmupTime : Nat
  linkRate : Nat
  tickleIdle : Nat
  ticklePeriod : Nat
  tickleCadence : Nat
  tickleGroups : BitVec 16
deriving DecidableEq, Repr

/-- The head link (TABLE 6-1). -/
structure HeadLink where
  state : HeadState
  warmupTimer : Timer
  shift : Shift
  shiftTimer : Timer
  idleTimer : Timer
  tickleActive : Bool
  periodTimer : Timer
  periodCount : Nat
  settings : HeadSettings
  /-- The levels of HL_DAT0 (bit 0) to HL_DAT3 between shifts (R172). -/
  dat : BitVec 4
deriving DecidableEq, Repr

/-! ### Pins, outputs and the whole state -/

/-- The input pins. For MARK `true` is high; for the others `true` is the active level (TABLE 0-2). -/
structure Pins where
  enc : LineState
  mark : Bool
  batch : Bool
  headPresent : Bool
  resetActive : Bool
deriving DecidableEq, Repr

/-- What a pulse on HL_FIRE is (R172). -/
inductive PulseKind where
  | fire | tickle
deriving DecidableEq, Repr

/-- What the port put on the bus as data in the last command (log 5). -/
inductive BusOut where
  | nothing
  | wrote (address value : Word)
  /-- The command ended a writing transaction of which it is not reported whether its write was made (R146). -/
  | mayHaveWritten (address : Word)
deriving DecidableEq, Repr

/-- The MODEL's record of what the last command put out on the lines and the bus (log 16). -/
structure Outputs where
  /-- The pulse given on HL_FIRE, if any. -/
  fire : Option PulseKind
  /-- The number of pulses given on HL_CLR. While RESET is active the line is held instead (`State.clrLevel`). -/
  clr : Nat
  bus : BusOut
deriving DecidableEq, Repr

/-- Nothing was put out. -/
def Outputs.none : Outputs := ⟨.none, 0, .nothing⟩

/-- The whole block. -/
structure State where
  ctl : Control
  walker : Walker
  writer : Writer
  port : Port
  slots : Slots
  builder : Builder
  /-- The row queue, head first (R42). -/
  queue : List Item
  staging : Staging
  tracker : Tracker
  firing : Firing
  mapper : Mapper
  head : HeadLink
  pins : Pins
  outs : Outputs
  /-- The MODEL's index of the next free value (log 11). -/
  free : Nat
  /-- The commands that are waiting, first in, first out. -/
  pending : List Instr
deriving DecidableEq, Repr

/-- Reasons to stop. No rule of the spec stops the part, and no command of the model answers a fault, so there is none. -/
inductive Fault where
deriving DecidableEq, Repr

/-- Reasons to refuse a command. -/
inductive Refusal where
  /-- Raised by `exec` alone, for a command that has no meaning yet; safe, since nothing follows from it. -/
  | notModelled (mnemonic : String)
deriving DecidableEq, Repr

/-- What a command answers. -/
abbrev Answer := Host.Outcome State Fault Refusal

/-! ### Reset values -/

/-- TABLE 7-3, with the anchor given: 0 after pin reset, kept after soft reset (R126). -/
def Walker.reset (anchor : Word) : Walker := ⟨.idle, false, .stopped, 1000, anchor, .none⟩

/-- R145, R141: no request, no task. -/
def Port.reset : Port := ⟨none, none, none, none, false⟩

/-- TABLE 3-5. -/
def TrackerSettings.reset : TrackerSettings := ⟨⟨.activeHigh, 4, 0, 16, 0#32⟩, 1024, 200⟩

/-- TABLE 3-1, with the levels on the encoder lines (R48). -/
def Tracker.reset (line : LineState) : Tracker :=
  ⟨line, 0#32, 0, .still, .stopped, .waiting, none, [], TrackerSettings.reset⟩

/-- TABLE 4-2. -/
def Firing.reset : Firing := ⟨.out, none, 1, 8, 0⟩

/-- TABLE 5-1. -/
def Mapper.reset : Mapper := ⟨resetTable, resetTable, .a, 15#4, List.replicate Config.nozzles .good⟩

/-- TABLE 6-5. -/
def HeadSettings.reset : HeadSettings := ⟨500, 2, 0, 1000, 4, 0xFFFF#16⟩

/-- TABLE 6-1; the data lines are low (R172). -/
def HeadLink.reset : HeadLink :=
  ⟨.off, .stopped, .idle, .stopped, .stopped, false, .stopped, 0, HeadSettings.reset, 0#4⟩

/-- Both slots free (R137). -/
def Slots.reset : Slots := ⟨none, none, .slot0⟩

/-- Every block at its reset values (R170, R171), with the anchor, the attention enables, the pins, the free-value
index and the waiting commands as given. -/
def State.afterReset (anchor : Word) (attnEn : BitVec 8) (pins : Pins) (free : Nat) (pending : List Instr) : State :=
  { ctl := ⟨.stopped, false, 0#8, attnEn, .none⟩
    walker := Walker.reset anchor
    writer := ⟨[], 0⟩
    port := Port.reset
    slots := Slots.reset
    builder := Builder.reset
    queue := []
    staging := .empty
    tracker := Tracker.reset pins.enc
    firing := Firing.reset
    mapper := Mapper.reset
    head := HeadLink.reset
    pins := pins
    outs := Outputs.none
    free := free
    pending := pending }

/-- The levels on the pins in `State.reset` (DESIGN CHOICE, log 6): encoder lines and MARK low, BATCH inactive, the head
present, RESET inactive. -/
def Pins.reset : Pins := ⟨⟨false, false⟩, false, false, true, false⟩

/-- The machine right after pin reset, RESET inactive again (R170). -/
def State.reset : State := State.afterReset 0#32 0#8 Pins.reset 0 []

end Sys2Proof.Machine
end

