-- ==== Sys2Proof/Machine/Operands.lean ====
section
/-! DEFINITION. The formats of chapter 10: what the words that reach the block hold. State word, layout entry, setup
block, drop table, nozzle map, rows of pixels; and the words the engine writes. -/

namespace Sys2Proof.Machine

/-! ### Fields of a word (10.1) -/

/-- The unsigned number in the `len` bits of a word from bit `lo` (10.1). -/
def bits (w : Word) (lo len : Nat) : Nat := (w.extractLsb' lo len).toNat

/-- A word with the `len` bits from bit `lo` replaced by a number, and every other bit kept (10.1, 10.2). -/
def withBits (w : Word) (lo len value : Nat) : Word :=
  (w &&& ~~~(BitVec.ofNat 32 (2 ^ len - 1) <<< lo)) ||| (BitVec.ofNat 32 (value % 2 ^ len) <<< lo)

/-- Word `k` of a read; a read of the length its transaction has holds it. -/
def wordAt (words : List Word) (k : Nat) : Word := words.getD k 0#32

/-- Byte `k` of a structure read as words, little-endian (10.1). -/
def byteAt (words : List Word) (k : Nat) : Byte := (wordAt words (k / 4)).extractLsb' (8 * (k % 4)) 8

/-- A count at its largest value stays there when incremented (00_scope 0.5). -/
def satInc {w : Nat} (x : BitVec w) : BitVec w := if x = BitVec.allOnes w then x else x + 1#w

/-- A saturating counter to which a number is added (R100). -/
def satAdd {w : Nat} (x : BitVec w) (n : Nat) : BitVec w :=
  if x.toNat + n < 2 ^ w then x + BitVec.ofNat w n else BitVec.allOnes w

/-! ### The state word (TABLE 10-1) -/

/-- The states of a record (TABLE 7-2). -/
inductive RecordState where
  | empty | ready | taken | done | faulted | withdrawn
deriving DecidableEq, Repr

/-- The code of a record state (TABLE 10-9). -/
def RecordState.code : RecordState → Nat
  | .empty => 0
  | .ready => 1
  | .taken => 2
  | .done => 3
  | .faulted => 4
  | .withdrawn => 5

/-- STATE of a state word; 6 and 7 are no state (TABLE 10-10). -/
def recordState (w : Word) : Option RecordState :=
  match bits w 0 3 with
  | 0 => some .empty
  | 1 => some .ready
  | 2 => some .taken
  | 3 => some .done
  | 4 => some .faulted
  | 5 => some .withdrawn
  | _ => none

/-- RELEASED of a state word (TABLE 10-1). -/
def released (w : Word) : Bool := w.getLsbD 3

/-- The fields of word 0 of a header that the walker keeps (TABLE 10-1, R132). -/
def Header.ofWord (w : Word) : Header :=
  { kind := w.extractLsb' 4 2
    entries := bits w 8 8
    notify := w.getLsbD 6
    strict := w.getLsbD 7 }

/-- KIND PRINT is 1 (R123). -/
def isPrintKind (kind : BitVec 2) : Bool := kind == 1#2

/-- KIND SETUP is 2 (R123). -/
def isSetupKind (kind : BitVec 2) : Bool := kind == 2#2

/-- The header check of a take (R133). -/
def Header.valid (h : Header) : Bool :=
  (isPrintKind h.kind && (1 ≤ h.entries && h.entries ≤ 64)) || isSetupKind h.kind

/-- The code of a job fault (TABLE 7-6). -/
def FaultCode.code : FaultCode → Nat
  | .headerInvalid => 0x01
  | .entryIllegal => 0x02
  | .repeatUnmatched => 0x03
  | .repeatDepth => 0x04
  | .emptyPass => 0x05
  | .fetchBus => 0x06
  | .setupRange => 0x07
  | .underrun => 0x08
  | .overspeed => 0x09
  | .headLost => 0x0A
  | .reverseLimit => 0x0B
  | .cancelled => 0x0C
  | .halted => 0x0D

/-- The word the exchange of a take writes over one that is READY with RELEASED clear: STATE alone changes (R132). -/
def takenWord (w : Word) : Word := withBits w 0 3 RecordState.taken.code

/-- The word a release writes: RELEASED alone changes (R125). -/
def releasedWord (w : Word) : Word := withBits w 3 1 1

/-- The word the state update of a completion writes over one that is TAKEN: STATE, FAULT and FAULT_ENTRY change,
every other field is kept (R142). -/
def completedWord (w : Word) : Option (FaultCode × Nat) → Word
  | none => withBits (withBits (withBits w 0 3 RecordState.done.code) 16 8 0) 24 6 0
  | some (code, entry) => withBits (withBits (withBits w 0 3 RecordState.faulted.code) 16 8 code.code) 24 6 entry

/-- Result word `k` of a completion, `k` from 0 to 8, at offset 0x0C + 4 × k of the record (TABLE 10-1, R142). -/
def resultWord (c : Counts) (endPosition : Word) : Nat → Word
  | 0 => c.rowsFired
  | 1 => c.productsMissed ++ c.productsStarted
  | 2 => c.overspeeds ++ c.underruns
  | 3 => c.substitutions
  | 4 => c.lostDots
  | 5 => c.marksLong ++ c.marksShort
  | 6 => c.marksDropped ++ c.marksClose
  | 7 => c.outerPasses
  | _ => endPosition

/-- The result words of a record: offsets 0x0C to 0x2C (TABLE 10-1). -/
abbrev resultWords : Nat := 9

/-- The offset of result word `k` (TABLE 10-1). -/
def resultOffset (k : Nat) : Word := BitVec.ofNat 32 (0x0C + 4 * k)

/-! ### Layout entries (10.3) -/

/-- The entry kinds (TABLE 1-1). -/
inductive EntryKind where
  | image | overlayExt | blank | waitMark | table | repeatOpen | repeatClose | repeatExit | finish
deriving DecidableEq, Repr

/-- The condition codes (TABLE 1-4). -/
inductive Condition where
  | always | first | notFirst | odd | even | last | batchOn | batchOff
deriving DecidableEq, Repr

/-- An entry from the words of its burst read (R27). -/
def Entry.ofWords (ws : List Word) : Entry := ⟨wordAt ws 0, wordAt ws 1, wordAt ws 2, wordAt ws 3, wordAt ws 4⟩

/-- KIND of an entry; a value outside 1 to 9 is no kind (R3). -/
def Entry.kind (e : Entry) : Option EntryKind :=
  match bits e.w0 0 4 with
  | 1 => some .image
  | 2 => some .overlayExt
  | 3 => some .blank
  | 4 => some .waitMark
  | 5 => some .table
  | 6 => some .repeatOpen
  | 7 => some .repeatClose
  | 8 => some .repeatExit
  | 9 => some .finish
  | _ => none

/-- COND of an entry: all eight values are defined (R12). -/
def Entry.cond (e : Entry) : Condition :=
  match bits e.w0 4 3 with
  | 0 => .always
  | 1 => .first
  | 2 => .notFirst
  | 3 => .odd
  | 4 => .even
  | 5 => .last
  | 6 => .batchOn
  | _ => .batchOff

/-- COUNT of an entry (TABLE 10-2). -/
def Entry.count (e : Entry) : Nat := bits e.w0 16 16

/-- REVERSE of an IMAGE (TABLE 10-2). -/
def Entry.reverse (e : Entry) : Bool := e.w0.getLsbD 8

/-- FOREVER of a REPEAT_OPEN (TABLE 10-2). -/
def Entry.forever (e : Entry) : Bool := e.w0.getLsbD 8

/-- EXT of an IMAGE (TABLE 10-2). -/
def Entry.ext (e : Entry) : Bool := e.w0.getLsbD 9

/-- OPAQUE of an IMAGE (TABLE 10-2). -/
def Entry.opaqueFlag (e : Entry) : Bool := e.w0.getLsbD 10

/-- SRC of an IMAGE or a TABLE (TABLE 10-3). -/
def Entry.src (e : Entry) : Word := e.w1

/-- CLOSE of a REPEAT_OPEN (TABLE 10-3). -/
def Entry.closeIndex (e : Entry) : Nat := bits e.w1 0 8

/-- The fields of an IMAGE (TABLE 10-3). -/
def Entry.imageFields (e : Entry) : ImageFields :=
  { src := e.w1
    stride := bits e.w2 0 16
    depth := bits e.w2 16 3
    firstBit := bits e.w2 24 8
    count := e.count
    nozzle := bits e.w3 0 16
    width := bits e.w3 16 16
    reverse := e.reverse
    opaqueFlag := e.opaqueFlag }

/-- The fields of an OVERLAY_EXT (TABLE 10-3). -/
def Entry.overlayFields (e : Entry) : OverlayFields :=
  { src := e.w1
    stride := bits e.w2 0 16
    depth := bits e.w2 16 3
    firstBit := bits e.w2 24 8
    nozzle := bits e.w3 0 16
    width := bits e.w3 16 16
    rowFirst := bits e.w4 0 16
    rows := bits e.w4 16 16 }

/-- An address is a multiple of `n`. -/
def aligned (n : Nat) (a : Word) : Bool := a.toNat % n == 0

/-- The content checks of an IMAGE (R5, TABLE 1-2). -/
def ImageFields.legal (f : ImageFields) : Bool :=
  aligned 4 f.src && (4 ≤ f.stride && f.stride ≤ 65532 && f.stride % 4 == 0) &&
    (f.depth == 1 || f.depth == 2 || f.depth == 4) && f.firstBit ≤ 31 && (1 ≤ f.count && f.count ≤ 65535) &&
    f.nozzle ≤ 639 && (1 ≤ f.width && f.width ≤ 640 && f.nozzle + f.width ≤ 640)

/-- The content checks of an OVERLAY_EXT that extends an image of `count` rows (R8, TABLE 1-3). -/
def OverlayFields.legal (f : OverlayFields) (count : Nat) : Bool :=
  aligned 4 f.src && (4 ≤ f.stride && f.stride ≤ 65532 && f.stride % 4 == 0) &&
    (f.depth == 1 || f.depth == 2) && f.firstBit ≤ 31 && f.nozzle ≤ 639 &&
    (1 ≤ f.width && f.width ≤ 640 && f.nozzle + f.width ≤ 640) && f.rowFirst ≤ 65534 &&
    (1 ≤ f.rows && f.rowFirst + f.rows ≤ count)

/-! ### Rows of pixels (R29 to R33) -/

/-- The words that hold `bitCount` bits, at the least (R29). -/
def wordsFor (bitCount : Nat) : Nat := (bitCount + 31) / 32

/-- The bits of a row read numbered as one string: bit b of the string is bit b of this number (R30). -/
def rowString (words : List Word) : Nat := words.foldr (fun w rest => w.toNat + 2 ^ 32 * rest) 0

/-- The value of pixel `i` of a row (R30). -/
def pixelAt (string firstBit depth i : Nat) : Nat := (string >>> (firstBit + i * depth)) % 2 ^ depth

/-- The level of a pixel value (TABLE 2-4). -/
def levelOf (depth value : Nat) : BitVec 4 :=
  match depth with
  | 1 => BitVec.ofNat 4 (15 * value)
  | 2 => BitVec.ofNat 4 (5 * value)
  | _ => BitVec.ofNat 4 value

/-- The overlay value of an overlay pixel value (R32). -/
def overlayOf (depth value : Nat) : BitVec 2 :=
  match depth with
  | 1 => BitVec.ofNat 2 (3 * value)
  | _ => BitVec.ofNat 2 value

/-- Nozzle `n` lies in the `width` nozzles from `first` (R31, R32). -/
def inBand (first width n : Nat) : Bool := first ≤ n && n < first + width

/-- The byte address of the stored row of print-order row `r` (R29). -/
def ImageFields.rowAddress (f : ImageFields) (r : Nat) : Word :=
  f.src + BitVec.ofNat 32 ((if f.reverse then f.count - 1 - r else r) * f.stride)

/-- The words of one image row read (R29, TABLE 2-2). -/
def ImageFields.rowWords (f : ImageFields) : Nat := wordsFor (f.firstBit + f.width * f.depth)

/-- The dots of an image row without overlay (R31). -/
def ImageFields.dots (f : ImageFields) (words : List Word) : List Dot :=
  let string := rowString words
  (List.range Config.nozzles).map fun n =>
    if inBand f.nozzle f.width n then
      { level := levelOf f.depth (pixelAt string f.firstBit f.depth (n - f.nozzle)), overlay := 0#2, covered := false }
    else Dot.blank

/-- Print-order row `r` carries overlay (R32). -/
def OverlayFields.carries (f : OverlayFields) (r : Nat) : Bool := f.rowFirst ≤ r && r < f.rowFirst + f.rows

/-- The byte address of the stored overlay row of print-order row `r` (R32): forward order whatever REVERSE holds. -/
def OverlayFields.rowAddress (f : OverlayFields) (r : Nat) : Word :=
  f.src + BitVec.ofNat 32 ((r - f.rowFirst) * f.stride)

/-- The words of one overlay row read (R32). -/
def OverlayFields.rowWords (f : OverlayFields) : Nat := wordsFor (f.firstBit + f.width * f.depth)

/-- An overlay row laid over the dots of its image row; with OPAQUE its nozzle range is covered (R32, R33). -/
def OverlayFields.lay (f : OverlayFields) (opaqueFlag : Bool) (words : List Word) (dots : List Dot) : List Dot :=
  let string := rowString words
  dots.mapIdx fun n d =>
    if inBand f.nozzle f.width n then
      { d with
        overlay := overlayOf f.depth (pixelAt string f.firstBit f.depth (n - f.nozzle))
        covered := opaqueFlag }
    else d

/-- A blank row (R34): level 0, overlay value 0 and no covered mark at every nozzle. -/
def Row.ofBlank : Row := ⟨true, List.replicate Config.nozzles Dot.blank⟩

/-! ### Setup block, drop table, nozzle map (10.4, 10.5) -/

/-- The parameters of a setup block from its words (TABLE 10-4). -/
def SetupParams.ofWords (ws : List Word) : SetupParams :=
  { pitch := bits (wordAt ws 0) 0 16
    pitchTrim := bits (wordAt ws 0) 16 8
    markEdge := bits (wordAt ws 0) 24 8
    printDelay := wordAt ws 1
    markMin := bits (wordAt ws 2) 0 16
    markMax := bits (wordAt ws 2) 16 16
    markGap := bits (wordAt ws 3) 0 16
    reverseLimit := bits (wordAt ws 3) 16 16
    stillTime := bits (wordAt ws 4) 0 16
    tickleIdle := bits (wordAt ws 4) 16 16
    ticklePeriod := bits (wordAt ws 5) 0 16
    tickleCadence := bits (wordAt ws 5) 16 8
    linkRate := bits (wordAt ws 5) 24 8
    tickleGroups := (wordAt ws 6).extractLsb' 0 16
    levelMask := bits (wordAt ws 6) 16 8
    warmupTime := bits (wordAt ws 7) 0 16
    pollInterval := bits (wordAt ws 7) 16 16
    mapAddress := wordAt ws 8 }

/-- Every parameter lies in its range of TABLE 8-1 (R149). -/
def SetupParams.inRange (p : SetupParams) : Bool :=
  (1 ≤ p.pitch && p.pitch ≤ 4096) && p.pitchTrim ≤ 15 && p.printDelay.toNat ≤ 1048575 && p.markEdge ≤ 1 &&
    (1 ≤ p.markMin && p.markMin ≤ 255) && (p.markMax == 0 || (p.markMin ≤ p.markMax && p.markMax ≤ 65535)) &&
    p.markGap ≤ 65535 && p.reverseLimit ≤ 65535 && (1 ≤ p.stillTime && p.stillTime ≤ 10000) &&
    p.tickleIdle ≤ 60000 && (100 ≤ p.ticklePeriod && p.ticklePeriod ≤ 65535) &&
    (p.tickleCadence == 1 || p.tickleCadence == 2 || p.tickleCadence == 4 || p.tickleCadence == 8) &&
    p.warmupTime ≤ 10000 && p.linkRate ≤ 3 && p.levelMask ≤ 15 &&
    (50 ≤ p.pollInterval && p.pollInterval ≤ 65535) && aligned 32 p.mapAddress

/-- MARK_EDGE as its code says (TABLE 8-1). -/
def markEdgeOf (code : Nat) : MarkEdge := if code = 0 then .activeHigh else .activeLow

/-- The entry one table byte holds; bits 4 to 7 are disregarded (TABLE 10-5). -/
def DropEntry.ofByte (b : Byte) : DropEntry := ⟨b.extractLsb' 0 2, b.extractLsb' 2 2⟩

/-- The 20 entries of a drop table from its five words (R38). -/
def dropTableOf (ws : List Word) : List DropEntry := (List.range 20).map fun k => DropEntry.ofByte (byteAt ws k)

/-- The value a nozzle map in memory holds for nozzle `n` (10.5). -/
def mapValue (ws : List Word) (n : Nat) : Nat := bits (wordAt ws (n / 16)) (2 * (n % 16)) 2

/-- The nozzle state of a legal map value (R40). -/
def nozzleStateOf : Nat → NozzleState
  | 0 => .good
  | 1 => .weak
  | _ => .out

/-- The nozzle map of 40 words, unless an entry holds 3 (R40). -/
def nozzleMapOf (ws : List Word) : Option (List NozzleState) :=
  if (List.range Config.nozzles).all (fun n => mapValue ws n != 3) then
    some ((List.range Config.nozzles).map fun n => nozzleStateOf (mapValue ws n))
  else none

/-! ### The lines of the encoder and of MARK (chapter 3) -/

/-- The line state after a forward step: ENC_A leads ENC_B (TABLE 3-2). -/
def LineState.forward (l : LineState) : LineState := ⟨!l.b, l.a⟩

/-- The line state after a reverse step (TABLE 3-2). -/
def LineState.reverse (l : LineState) : LineState := ⟨l.b, !l.a⟩

/-- The line state after a step in a direction (R48). -/
def LineState.step (l : LineState) : Direction → LineState
  | .forward => l.forward
  | .reverse => l.reverse

/-- The line state after a transition in which both lines change (R49). -/
def LineState.flip (l : LineState) : LineState := ⟨!l.a, !l.b⟩

/-- The level at which MARK is active (R55). -/
def MarkEdge.level : MarkEdge → Bool
  | .activeHigh => true
  | .activeLow => false

/-- The polarity under which edges are judged: captured in MEASURING and JAMMED, in force in WAITING (R55). -/
def Tracker.edgeInUse (t : Tracker) : MarkEdge :=
  match t.qualifier with
  | .waiting => t.settings.mark.edge
  | .measuring _ _ captured => captured.edge
  | .jammed edge => edge

/-- A position is reached when the signed 32-bit difference of EPOS minus it is 0 or more (R52). -/
def reached (epos position : Word) : Bool := !(epos - position).msb

end Sys2Proof.Machine
end

