-- ==== Sys2Proof/Machine/Flags.lean ====
section
/-! DEFINITION. Attention flags, the STATUS fields and what a read of the register window returns (chapter 9, 10.6). -/

namespace Sys2Proof.Machine

/-- The attention flags (TABLE 9-5). -/
inductive Attention where
  | done | fault | chain | head | web | stopped | encoderSlip | markLost
deriving DecidableEq, Repr

/-- The position of a flag in ATTN and ATTN_EN (TABLE 10-8). -/
def Attention.position : Attention → Nat
  | .done => 0
  | .fault => 1
  | .chain => 2
  | .head => 3
  | .web => 4
  | .stopped => 5
  | .encoderSlip => 6
  | .markLost => 7

/-- An event sets its attention flag and changes nothing else of the control block (R167). -/
def State.raise (s : State) (f : Attention) : State :=
  { s with ctl := { s.ctl with attn := s.ctl.attn ||| (1#8 <<< f.position) } }

/-- The ATTN line is active while at least one flag is set with its enable set (R169). -/
def State.attnLine (s : State) : Bool := s.ctl.attn &&& s.ctl.attnEn != 0#8

/-- HPWR is high while the head is WARMING, READY or LOST (R107). -/
def State.hpwr (s : State) : Bool := s.head.state != .off

/-- HL_CLR is held asserted while the RESET input is active (R172). -/
def State.clrLevel (s : State) : Bool := s.pins.resetActive

/-! ### STATUS (TABLE 10-7) -/

/-- ENGINE of STATUS. -/
def EngineState.code : EngineState → BitVec 3
  | .stopped => 0#3
  | .running => 1#3
  | .draining => 2#3
  | .abandoning => 3#3
  | .faulted => 4#3

/-- HEAD of STATUS. -/
def HeadState.code : HeadState → BitVec 2
  | .off => 0#2
  | .warming => 1#2
  | .ready => 2#2
  | .lost => 3#2

/-- WEB of STATUS. -/
def WebState.code : WebState → BitVec 1
  | .still => 0#1
  | .moving => 1#1

/-- PRINT of STATUS. -/
def PrintState.code : PrintState → BitVec 1
  | .out => 0#1
  | .into => 1#1

/-- SHIFT of STATUS. -/
def Shift.code : Shift → BitVec 2
  | .idle => 0#2
  | .row .. => 1#2
  | .tickle _ => 2#2

/-- CHAIN_CAUSE of STATUS (TABLE 7-4). -/
def ChainCause.code : ChainCause → BitVec 3
  | .none => 0#3
  | .linkMisaligned => 1#3
  | .readBus => 2#3
  | .staleState => 3#3
  | .writeBus => 4#3

/-- Occupied slots, whatever the phase of their jobs (R137). -/
def Slots.occupied (s : Slots) : Nat := s.slot0.isSome.toNat + s.slot1.isSome.toNat

/-- STATUS as it stands, composed from bit 31 down (TABLE 10-7); bits without a field read 0. -/
def State.status (s : State) : Word :=
  0#1 ++ BitVec.ofNat 3 s.builder.stack.length ++ 0#2 ++ BitVec.ofNat 2 s.slots.occupied ++
    BitVec.ofNat 4 s.tracker.marks.length ++ BitVec.ofNat 4 s.queue.length ++ 0#3 ++ s.ctl.chainCause.code ++
    s.head.shift.code ++ BitVec.ofBool s.ctl.refused ++ s.firing.print.code ++ s.tracker.web.code ++
    s.head.state.code ++ s.ctl.engine.code

/-- A read of a whole register at an offset of the window (R158, TABLE 9-2). It has no side effect. An offset that is no
multiple of 4 is the offset of no register, and a read of 4 bytes there gives 0 (log 18). -/
def State.readRegister (s : State) (offset : Nat) : Word :=
  match offset with
  | 0x00 => Config.idValue
  | 0x08 => s.status
  | 0x0C => s.walker.anchor
  | 0x10 => s.ctl.attn.setWidth 32
  | 0x14 => s.ctl.attnEn.setWidth 32
  | _ => 0#32

/-- A read of one byte: the addressed byte of its register (R158). -/
def State.readByte (s : State) (offset : Nat) : Byte :=
  (s.readRegister (offset - offset % 4)).extractLsb' (8 * (offset % 4)) 8

end Sys2Proof.Machine
end

