-- ==== Sys2Proof/Machine/Ops.lean ====
section
/-! DEFINITION. The named operations over slots, counts, the row queue, the memory port and the write list that every
block shares. TAKING A JOB FAULT is one operation here (`State.takeFault`), written from R139, R44, R23 and R86. -/

namespace Sys2Proof.Machine

/-! ### How a command reaches the block -/

/-- What the last command put out is over: HL_FIRE and HL_CLR stand low between events (R172). -/
def State.quiet (s : State) : State := { s with outs := Outputs.none }

/-- An event reaches the block. While the RESET input is active the engine takes no event and the register window
disregards writes (R170). -/
def event (s : State) (f : State → State) : Answer :=
  .next (if s.pins.resetActive then s.quiet else f s.quiet)

/-- An event on an input: the level of the pin changes whether or not RESET is active, and the block then takes the
event unless RESET is active (R170). -/
def pinEvent (s : State) (pins : Pins) (f : State → State) : Answer := event { s with pins := pins } f

/-! ### Job slots (R137) -/

/-- The other slot. -/
def otherSlot : SlotId → SlotId
  | .slot0 => .slot1
  | .slot1 => .slot0

/-- The job a slot holds. -/
def Slots.get (t : Slots) : SlotId → Option Job
  | .slot0 => t.slot0
  | .slot1 => t.slot1

/-- The slots with one slot's content replaced. -/
def Slots.put (t : Slots) (x : SlotId) (j : Option Job) : Slots :=
  match x with
  | .slot0 => { t with slot0 := j }
  | .slot1 => { t with slot1 := j }

/-- The job in a slot (R137). -/
def State.job (s : State) (x : SlotId) : Option Job := s.slots.get x

/-- A change of the job in a slot; a free slot stays free. -/
def State.mapJob (s : State) (x : SlotId) (f : Job → Job) : State :=
  match s.job x with
  | none => s
  | some j => { s with slots := s.slots.put x (some (f j)) }

/-- A change of the result counters of the job in a slot. -/
def State.mapCounts (s : State) (x : SlotId) (f : Counts → Counts) : State :=
  s.mapJob x fun j => { j with counts := f j.counts }

/-- The slot of the oldest held job (R137). -/
def Slots.oldest (t : Slots) : Option SlotId :=
  match t.slot0, t.slot1 with
  | none, none => none
  | some _, none => some .slot0
  | none, some _ => some .slot1
  | some _, some _ => some t.older

/-- The slot a take fills: a free one, the lower-numbered when both are free (R133). -/
def Slots.freeSlot (t : Slots) : Option SlotId :=
  match t.slot0, t.slot1 with
  | none, _ => some .slot0
  | some _, none => some .slot1
  | some _, some _ => none

/-- A taken job placed in a slot: a job held already is the older one (R137). -/
def State.placeJob (s : State) (x : SlotId) (j : Job) : State :=
  { s with slots := { s.slots.put x (some j) with
      older := if (s.slots.get (otherSlot x)).isSome then (otherSlot x) else x } }

/-- A slot freed; the other held job, if any, becomes the oldest (R142). -/
def State.freeJob (s : State) (x : SlotId) : State :=
  { s with slots := { s.slots.put x none with older := (otherSlot x) } }

/-- Whether a slot holds a job whose completion has not begun. -/
def State.counts (s : State) (x : SlotId) : Bool :=
  match s.job x with
  | none => false
  | some j => j.phase != .completing

/-- The counting job: the oldest held job whose completion has not begun, if any (R69). -/
def State.countingJob (s : State) : Option SlotId :=
  match s.slots.oldest with
  | none => none
  | some x => if s.counts x then some x else if s.counts (otherSlot x) then some (otherSlot x) else none

/-- A count made in the counting job; with no counting job it is not made (R69). -/
def State.countIn (s : State) (f : Counts → Counts) : State :=
  match s.countingJob with
  | none => s
  | some x => s.mapCounts x f

/-- A cause of a chain look sets look owed (R127). -/
def State.oweLook (s : State) : State := { s with walker := { s.walker with lookOwed := true } }

/-! ### The print state (R70) -/

/-- The print state becomes OUT: the divider stops and its counter is discarded; the trim index stays (R70). -/
def State.printOut (s : State) : State :=
  { s with firing := { s.firing with print := .out, divider := none } }

/-! ### The memory port (R144, R145) -/

/-- The block that uses a transaction (TABLE 7-7). -/
def TxKind.requester : TxKind → Requester
  | .entryRead | .rowRead | .overlayRead | .tableRead | .setupBlockRead | .mapRead => .builder
  | .linkRead | .stateRead | .headerRead | .takeExchange => .walker
  | .resultWrite | .stateUpdate | .release => .writer

/-- The block that requested a transaction. -/
def Transaction.requester (t : Transaction) : Requester := t.kind.requester

/-- The request of a block that waits for the port. -/
def Port.waiting (p : Port) : Requester → Option Transaction
  | .builder => p.builderReq
  | .writer => p.writerReq
  | .walker => p.walkerReq

/-- The port with the waiting request of a block replaced. -/
def Port.setWaiting (p : Port) (r : Requester) (t : Option Transaction) : Port :=
  match r with
  | .builder => { p with builderReq := t }
  | .writer => { p with writerReq := t }
  | .walker => { p with walkerReq := t }

/-- The transaction in progress, when it is of one block. -/
def Port.currentOf (p : Port) (r : Requester) : Bool :=
  match p.current with
  | none => false
  | some t => t.requester == r

/-- A block has a transaction outstanding: requested and not granted, or granted and not ended (TABLE 2-1, R144). -/
def Port.outstanding (p : Port) (r : Requester) : Bool := (p.waiting r).isSome || p.currentOf r

/-- A block requests a transaction. -/
def State.request (s : State) (t : Transaction) : State :=
  { s with port := s.port.setWaiting t.requester (some t) }

/-- A transaction whose outcome will be discarded; it is not withdrawn (R45, R135, R144). -/
def Transaction.disowned (t : Transaction) : Transaction := { t with wanted := false }

/-- The outstanding transaction of a block is no longer wanted. A request that still waits is not withdrawn either: it is
granted in its turn, and its outcome discarded (R45 for the builder, log 34 for the walker). -/
def Port.disown (p : Port) (r : Requester) : Port :=
  { p.setWaiting r ((p.waiting r).map Transaction.disowned) with
    current := if p.currentOf r then p.current.map Transaction.disowned else p.current }

/-- The block the port is granted to (R145). -/
def Port.granted (p : Port) : Option Requester :=
  if p.builderReq.isSome && p.builderWaited then some .builder
  else if p.writerReq.isSome then some .writer
  else if p.walkerReq.isSome then some .walker
  else if p.builderReq.isSome then some .builder
  else none

/-- The port granted to a block: its request becomes the transaction in progress, and it is noted whether a request of
the builder was waiting at this grant (R145). -/
def Port.grant (p : Port) (r : Requester) : Port :=
  { p.setWaiting r none with
    current := p.waiting r
    builderWaited := r != .builder && p.builderReq.isSome }

/-- The port granted to the block it is due to, if a request waits (R145). -/
def Port.grantNext (p : Port) : Port :=
  match p.granted with
  | none => p
  | some r => p.grant r

/-! ### Row shifts (R113) -/

/-- A row shift is in flight. -/
def State.rowShifting (s : State) : Bool :=
  match s.head.shift with
  | .row .. => true
  | .idle | .tickle _ => false

/-- A row shift of the job in a slot is in flight. -/
def State.shifting (s : State) (x : SlotId) : Bool :=
  match s.head.shift with
  | .row _ y _ _ => y == x
  | .idle | .tickle _ => false

/-! ### Purge, abandon and job faults (R44, R23, R139) -/

/-- A ROW item of the job in a slot. -/
def Item.isRowOf (x : SlotId) : Item → Bool
  | .row y _ => y == x
  | .hold _ | .swap _ | .setup _ | .finish _ => false

/-- A SWAP item, of either job (R37). -/
def Item.isSwap : Item → Bool
  | .swap _ => true
  | .row .. | .hold _ | .setup _ | .finish _ => false

/-- A SETUP item, of either job (R39). -/
def Item.isSetup : Item → Bool
  | .setup _ => true
  | .row .. | .hold _ | .swap _ | .finish _ => false

/-- Rows discarded by a purge or a shift abort, in the account of R47. -/
def State.discardRows (s : State) (x : SlotId) (n : Nat) : State :=
  s.mapJob x fun j => { j with account := { j.account with discarded := j.account.discarded + n } }

/-- The purge of a job: every item of it leaves the queue, its ROWs are discarded, and the staging area is emptied
when its SETUP stood there (R44). -/
def State.purge (s : State) (x : SlotId) : State :=
  { s.discardRows x (s.queue.countP (Item.isRowOf x)) with
    queue := s.queue.filter fun it => it.slot != x
    staging := if s.queue.contains (.setup x) then .empty else s.staging }

/-- The builder stands in FETCHING for a read it has requested of the port, not one it still waits to request. -/
def Builder.reading (b : Builder) : Bool := b.state == .fetching && b.want.isNone

/-- The builder abandons the job it builds: it becomes FREE with the repeat stack empty, an item not emitted is
dropped, a staged block whose SETUP it still holds is dropped, and an outstanding read will be discarded (R23, R41,
R45). The job's phase becomes BUILT (R138), and the end of its building is a cause of a look (R127). -/
def State.abandon (s : State) (x : SlotId) : State :=
  State.oweLook
    (State.mapJob
      { s with
        port := if s.builder.reading then s.port.disown .builder else s.port
        staging := if s.builder.held = some (.setup x) || s.builder.task = .setupItem then .empty else s.staging
        builder := { Builder.reset with orphan := if s.builder.reading then some x else s.builder.orphan } }
      x fun j => { j with phase := .built })

/-- Whether the job in a slot can take a fault: it carries none and has not begun completing (R139). -/
def State.faultable (s : State) (x : SlotId) : Bool :=
  match s.job x with
  | none => false
  | some j => j.fault.isNone && j.phase != .completing

/-- A held job takes its first fault: its items are purged, the builder abandons it when it is building it, and the
print state becomes OUT when it is the counting job (R139, R86). A later fault, or one of a job that is COMPLETING,
changes nothing. Its completion begins by R140. -/
def State.takeFault (s : State) (x : SlotId) (code : FaultCode) (entry : Nat) : State :=
  if s.faultable x then
    let counting := s.countingJob = some x
    let marked := s.mapJob x fun j => { j with fault := some (code, entry) }
    let purged := marked.purge x
    let left := if purged.builder.job = some x then purged.abandon x else purged
    if counting then left.printOut else left
  else s

/-- A fault of the building job, from the builder (R22). -/
def State.faultBuilding (s : State) (code : FaultCode) (entry : Nat) : State :=
  match s.builder.job with
  | none => s
  | some x => s.takeFault x code entry

/-- A fault of the counting job; with none it is not taken (R69). -/
def State.faultCounting (s : State) (code : FaultCode) : State :=
  match s.countingJob with
  | none => s
  | some x => s.takeFault x code 0

/-! ### Completions and the write list (R88, R140, R141) -/

/-- A task is added to the tail of the write list (R141). -/
def State.addTask (s : State) (t : WriteTask) : State :=
  { s with writer := { s.writer with list := s.writer.list ++ [t] } }

/-- Two tasks that arrive together are added in either order: a free value decides (R141, log 9). -/
def State.addTasks (s : State) (t u : WriteTask) : State :=
  { (if Config.firstNamedFirst s.free then (s.addTask t).addTask u else (s.addTask u).addTask t) with
    free := s.free + 1 }

/-- The phase of the job becomes COMPLETING. -/
def State.completing (s : State) (x : SlotId) : State := s.mapJob x fun j => { j with phase := .completing }

/-- The completion task of a job: END_POSITION is the EPOS of this moment (R142). -/
def State.completionOf (s : State) (x : SlotId) : WriteTask := .completion x s.tracker.epos

/-- The completion of a job begins (R88, R140, R142). -/
def State.beginCompletion (s : State) (x : SlotId) : State := (s.completing x).addTask (s.completionOf x)

end Sys2Proof.Machine
end

