-- ==== Sys2Proof/Machine/Mapper.lean ====
section
/-! DEFINITION. The drop mapper (chapter 5): the banks, the mapping of a row, the substitution pass and the pattern of
a tickle shift. -/

namespace Sys2Proof.Machine

/-- The bank that serves rows (R91). -/
def Mapper.activeBank (m : Mapper) : List DropEntry :=
  match m.active with
  | .a => m.bankA
  | .b => m.bankB

/-- The bank that receives the next table (R93). -/
def Mapper.standbyBank (m : Mapper) : List DropEntry :=
  match m.active with
  | .a => m.bankB
  | .b => m.bankA

/-- A table read writes the standby bank as a whole; the active bank is not written (R93). -/
def Mapper.loadStandby (m : Mapper) (table : List DropEntry) : Mapper :=
  match m.active with
  | .a => { m with bankB := table }
  | .b => { m with bankA := table }

/-- The banks exchange roles; no entry is copied or changed (R94). -/
def Mapper.exchange (m : Mapper) : Mapper :=
  { m with active := match m.active with | .a => .b | .b => .a }

/-- Entry `k` of a drop table of 20 entries. -/
def tableEntry (bank : List DropEntry) (k : Nat) : DropEntry := bank.getD k ⟨0#2, 0#2⟩

/-- The entry of the active bank that a nozzle of an image row selects (R97). -/
def Mapper.entryFor (m : Mapper) (d : Dot) : DropEntry :=
  if d.overlay != 0#2 then tableEntry m.activeBank (16 + d.overlay.toNat)
  else if d.covered then tableEntry m.activeBank 16
  else tableEntry m.activeBank (d.level &&& m.levelMask).toNat

/-- The primary code of a nozzle (R99). -/
def primaryCode (state : NozzleState) (e : DropEntry) : BitVec 2 :=
  match state with
  | .good => e.good
  | .weak => e.weak
  | .out => 0#2

/-- The primary codes of a row, in nozzle order (R99). -/
def Mapper.primaryCodes (m : Mapper) (dots : List Dot) : List (BitVec 2) :=
  List.zipWith (fun state d => primaryCode state (m.entryFor d)) m.map dots

/-- The OUT nozzles whose wanted code is greater than 0, in ascending order, each with that code (R99). -/
def Mapper.wantedDots (m : Mapper) (dots : List Dot) : List (Nat × BitVec 2) :=
  (List.zipWith Prod.mk m.map dots).zipIdx.filterMap fun ((state, d), n) =>
    if state = .out ∧ (m.entryFor d).good ≠ 0#2 then some (n, (m.entryFor d).good) else none

/-- The codes of a row with its counts of substitutions and lost dots (R100). -/
structure RowCodes where
  codes : List (BitVec 2)
  substitutions : Nat
  lostDots : Nat
deriving DecidableEq, Repr

/-- Nozzle `n` exists, is GOOD in the map, and holds code 0 at this point of the pass (R99). -/
def canReceive (map : List NozzleState) (codes : List (BitVec 2)) (n : Nat) : Bool :=
  map[n]? == some .good && codes[n]? == some 0#2

/-- One OUT nozzle of the substitution pass: its left neighbour first, then its right, else the dot is lost (R99). -/
def placeDot (map : List NozzleState) (r : RowCodes) (want : Nat × BitVec 2) : RowCodes :=
  if 0 < want.1 ∧ canReceive map r.codes (want.1 - 1) then
    { r with codes := r.codes.set (want.1 - 1) want.2, substitutions := r.substitutions + 1 }
  else if canReceive map r.codes (want.1 + 1) then
    { r with codes := r.codes.set (want.1 + 1) want.2, substitutions := r.substitutions + 1 }
  else { r with lostDots := r.lostDots + 1 }

/-- The substitution pass over the OUT nozzles (R99). -/
def substitute (map : List NozzleState) (codes : List (BitVec 2)) (wanted : List (Nat × BitVec 2)) : RowCodes :=
  wanted.foldl (placeDot map) ⟨codes, 0, 0⟩

/-- The 640 drop codes of a row, fixed when its row shift begins (R95); a blank row has code 0 everywhere (R96). -/
def Mapper.mapRow (m : Mapper) (row : Row) : RowCodes :=
  if row.blank then ⟨List.replicate Config.nozzles 0#2, 0, 0⟩
  else substitute m.map (m.primaryCodes row.dots) (m.wantedDots row.dots)

/-- The pattern of a tickle shift: the nozzles of enabled groups that are not OUT (R103, R119). -/
def Mapper.ticklePattern (m : Mapper) (groups : BitVec 16) : List Bool :=
  m.map.mapIdx fun n state => groups.getLsbD (n / Config.groupSize) && state != .out

/-- The mapper's part of the application of a SETUP (R102, R152). -/
def Mapper.applySetup (m : Mapper) (p : SetupParams) (map : Option (List NozzleState)) : Mapper :=
  { m with levelMask := BitVec.ofNat 4 p.levelMask, map := map.getD m.map }

end Sys2Proof.Machine
end

