-- ==== Sys2Proof/Machine/HeadLink.lean ====
section
/-! DEFINITION. The head link (chapter 6): head states, shifts, pulses, aborts and tickle. -/

namespace Sys2Proof.Machine

/-- A timer loaded with an interval that 0 turns off (R117). -/
def timerOf (interval : Nat) : Timer := if interval = 0 then .stopped else .running interval

/-! ### The data lines (R172) -/

/-- Two nozzles' values on the four lines: the even nozzle on HL_DAT0 and HL_DAT1, the odd on HL_DAT2 and HL_DAT3. -/
def lineClocks : List (BitVec 2) → List (BitVec 4)
  | even :: odd :: rest => (odd ++ even) :: lineClocks rest
  | _ => []

/-- The values on the data lines at clocks 0 to 320 of a shift (R172). -/
def Shift.lineData : Shift → List (BitVec 4)
  | .idle => []
  | .row codes _ _ _ => 1#4 :: lineClocks codes
  | .tickle pattern => 2#4 :: lineClocks (pattern.map fun named => if named then 1#2 else 0#2)

/-- The levels of the data lines while a shift is in flight, which they keep when it is aborted: those of the last clock
given. How many clocks were given is a free value (log 10). -/
def HeadLink.datAtAbort (h : HeadLink) (free : Nat) : BitVec 4 :=
  match min (Config.clocksAtAbort free) 321 with
  | 0 => h.dat
  | given + 1 => h.shift.lineData.getD given h.dat

/-- The levels of HL_DAT0 (bit 0) to HL_DAT3: between shifts they hold their last values (R172). In a shift they are read
at the counter of free values without advancing it, so two moments of a shift can show one clock (log 38). -/
def State.datLevel (s : State) : BitVec 4 :=
  match s.head.shift with
  | .idle => s.head.dat
  | .row .. | .tickle _ => s.head.datAtAbort s.free

/-- The level of HL_CLK: low between shifts (R172). In a shift it is a free value (log 10), read without advancing the
counter (log 38). -/
def State.clkLevel (s : State) : Bool :=
  match s.head.shift with
  | .idle => false
  | .row .. | .tickle _ => Config.clockLevel s.free

/-- The level of HL_FIRE: low but for a pulse, which is an event and stands in `outs` (R172). -/
def State.fireLevel (_ : State) : Bool := false

/-! ### Shifts (R113 to R116) -/

/-- A shift ends with its pulse (R115, R119, R172), with its last clock given. No free value is used, so the next shift
begins at the same counter (log 38). -/
def State.endShift (s : State) (pulse : PulseKind) : State :=
  { s with
    head := { s.head with
      shift := .idle, shiftTimer := .stopped, dat := s.head.shift.lineData.getLastD s.head.dat }
    outs := { s.outs with fire := some pulse } }

/-- A shift stops without its pulse, and HL_CLR is pulsed once (R116, R172). -/
def State.stopShift (s : State) : State :=
  { s with
    head := { s.head with shift := .idle, shiftTimer := .stopped, dat := s.head.datAtAbort s.free }
    outs := { s.outs with clr := s.outs.clr + 1 }
    free := s.free + 1 }

/-- A shift in flight is aborted; an aborted row shift discards its row (R116). -/
def State.abortShift (s : State) : State :=
  match s.head.shift with
  | .idle => s
  | .row _ x _ _ => s.stopShift.discardRows x 1
  | .tickle _ => s.stopShift

/-- A shift begins: the shift timer is started with the duration of the LINK_RATE in force (R113). -/
def State.beginShift (s : State) (shift : Shift) : State :=
  { s with head := { s.head with
      shift := shift, shiftTimer := .running (Config.shiftDuration s.head.settings.linkRate) } }

/-- Tickle becomes inactive, the period timer is stopped and the period count returns to 0 (R118). -/
def State.tickleOff (s : State) : State :=
  { s with head := { s.head with tickleActive := false, periodTimer := .stopped, periodCount := 0 } }

/-- A row shift begins: a tickle shift in flight is aborted, the mapper fixes the codes, and tickle becomes inactive
(R114, R95). -/
def State.startRowShift (s : State) (x : SlotId) (row : Row) : State :=
  let r := s.mapper.mapRow row
  (s.abortShift.beginShift (.row r.codes x r.substitutions r.lostDots)).tickleOff

/-- The tickle idle timer is restarted with the TICKLE_IDLE in force, or stopped when it is 0 (R117). -/
def State.restartIdle (s : State) : State :=
  { s with head := { s.head with idleTimer := timerOf s.head.settings.tickleIdle } }

/-- The three timers of the head link other than the shift timer are stopped, and tickle is inactive (R109, R112). -/
def State.stopHeadTimers (s : State) : State :=
  { s.tickleOff with head := { s.tickleOff.head with warmupTimer := .stopped, idleTimer := .stopped } }

/-! ### Head states (R107 to R112) -/

/-- The head state becomes what is given, with nothing else. -/
def State.setHead (s : State) (h : HeadState) : State := { s with head := { s.head with state := h } }

/-- Entry to READY: HEAD attention is set, and the tickle idle timer is started unless the engine is ABANDONING
(R108, R117). -/
def State.enterReady (s : State) : State :=
  let ready := ({ s with head := { s.head with state := .ready, warmupTimer := .stopped } } : State).raise .head
  if s.ctl.engine = .abandoning then ready else ready.restartIdle

/-- Entry to WARMING with the full WARMUP_TIME, or to READY at once when it is 0 (R107, R111). -/
def State.beginWarmup (s : State) : State :=
  if s.head.settings.warmupTime = 0 then s.enterReady
  else { s with head := { s.head with state := .warming, warmupTimer := .running s.head.settings.warmupTime } }

/-- The engine enters RUNNING from STOPPED: HPWR goes high and HEAD_PRESENT is sampled (R107). -/
def State.powerHead (s : State) : State :=
  if s.pins.headPresent then s.beginWarmup else (s.setHead .lost).raise .head

/-- Entry to OFF: a shift in flight is aborted, the timers stop, and HL_CLR is pulsed once for the entry, beside the
pulse of the abort (R112, R116, R172). -/
def State.headOff (s : State) : State :=
  let off := (s.abortShift.stopHeadTimers).setHead .off
  { off with outs := { off.outs with clr := off.outs.clr + 1 } }

/-! ### Tickle (R117 to R119) -/

/-- A tickle shift begins, provided its pattern names a nozzle (R119). -/
def State.startTickleShift (s : State) : State :=
  let pattern := s.mapper.ticklePattern s.head.settings.tickleGroups
  if pattern.any id then s.beginShift (.tickle pattern) else s

/-- The beginning of a tickle period: in every TICKLE_CADENCE-th period with the link IDLE a tickle shift begins; with
the link busy that period's tickle is skipped (R118). -/
def State.beginPeriod (s : State) : State :=
  if s.head.periodCount % s.head.settings.tickleCadence = 0 ∧ s.head.shift = .idle then s.startTickleShift else s

/-- Tickle becomes active with period 0, and the period timer is started (R118). -/
def State.tickleOn (s : State) : State :=
  State.beginPeriod
    { s with head := { s.head with
        tickleActive := true, periodCount := 0, periodTimer := .running s.head.settings.ticklePeriod } }

/-- The next tickle period begins (R118). -/
def State.nextPeriod (s : State) : State :=
  State.beginPeriod
    { s with head := { s.head with
        periodCount := (s.head.periodCount + 1) % 8, periodTimer := .running s.head.settings.ticklePeriod } }

/-! ### The head link's part of the application of a SETUP (R121, R154) -/

/-- The head link settings of a setup block. -/
def headSettingsOf (p : SetupParams) : HeadSettings :=
  { warmupTime := p.warmupTime
    linkRate := p.linkRate
    tickleIdle := p.tickleIdle
    ticklePeriod := p.ticklePeriod
    tickleCadence := p.tickleCadence
    tickleGroups := p.tickleGroups }

/-- The settings are replaced; with the head READY tickle becomes inactive and the idle timer is restarted (R121). -/
def State.applyHeadSetup (s : State) (p : SetupParams) : State :=
  let set : State := { s with head := { s.head with settings := headSettingsOf p } }
  if s.head.state = .ready then set.tickleOff.restartIdle else set

end Sys2Proof.Machine
end

