-- ==== Sys2Proof/Machine/Firing.lean ====
section
/-! DEFINITION. The firing section (chapter 4): the trim cycle, row triggers, the pitch divider, product starts and
free starts. -/

namespace Sys2Proof.Machine

/-! ### The trim cycle (R76, R77) -/

/-- Row `k` of the cycle of 16 is lengthened (R77). -/
def lengthened (trim k : Nat) : Bool := (k - 1) * trim / 16 < k * trim / 16

/-- The interval that ends at the trigger of row `k` of the cycle (R77). -/
def Firing.interval (f : Firing) (k : Nat) : Nat := f.pitch + (lengthened f.pitchTrim k).toNat

/-- The trim index after `k`: from 16 to 1 (R76). -/
def nextTrim (k : Nat) : Nat := if 16 ≤ k then 1 else k + 1

/-- After a trigger the trim index advances and the counter is reloaded with the interval of the new index (R76). -/
def Firing.reload (f : Firing) : Firing :=
  { f with trimIndex := nextTrim f.trimIndex, divider := some (f.interval (nextTrim f.trimIndex)) }

/-- The trim index is 1 and the print state OUT with the divider stopped; PITCH and PITCH_TRIM are kept (R87). -/
def Firing.rest (f : Firing) : Firing := { f with print := .out, divider := none, trimIndex := 1 }

/-- A start: print state IN, trim index 1, the divider counter loaded (R75, R83). -/
def Firing.start (f : Firing) (counter : Nat) : Firing :=
  { f with print := .into, divider := some counter, trimIndex := 1 }

/-! ### Row triggers (R78 to R81) -/

/-- The STRICT flag of the counting job (R81). -/
def State.countingStrict (s : State) : Bool :=
  match s.countingJob with
  | none => false
  | some x =>
    match s.job x with
    | none => false
    | some j => j.strict

/-- A lost trigger is counted in the counting job, and gives a STRICT job its fault (R81). -/
def State.loseTrigger (s : State) (count : Counts → Counts) (code : FaultCode) : State :=
  if s.countingStrict then (s.countIn count).faultCounting code else s.countIn count

/-- One more overspeed (R79). -/
def Counts.overspeed (c : Counts) : Counts := { c with overspeeds := satInc c.overspeeds }

/-- One more underrun (R80). -/
def Counts.underrun (c : Counts) : Counts := { c with underruns := satInc c.underruns }

/-- The builder has a building job that is a print job (R80). -/
def State.buildingPrint (s : State) : Bool :=
  match s.builder.job with
  | none => false
  | some x =>
    match s.job x with
    | none => false
    | some j => isPrintKind j.kind

/-- A row trigger: an overspeed (R79), a row shift (R78), an underrun, or the end of the stream (R80). Another item at
the head is no case of a trigger: a HOLD there has made the print state OUT, and an END waits there only while a row
of its job is shifting. -/
def State.rowTrigger (s : State) : State :=
  if s.rowShifting then s.loseTrigger Counts.overspeed .overspeed
  else
    match s.queue with
    | [] => if s.buildingPrint then s.loseTrigger Counts.underrun .underrun else s.printOut
    | .row x row :: rest => { s with queue := rest }.startRowShift x row
    | .hold _ :: _ | .swap _ :: _ | .setup _ :: _ | .finish _ :: _ => s

/-- The divider expires: a row trigger, and after it, with the print state still IN, the reload (R76, R70, log 14). -/
def State.dividerExpires (s : State) : State :=
  let triggered := s.rowTrigger
  if triggered.firing.print = .into then { triggered with firing := triggered.firing.reload } else triggered

/-- An effective step decrements the divider counter (R76). A counter that reaches 0 expires at this same step, by the
block's own step for it. -/
def State.countStep (s : State) : State :=
  { s with firing := { s.firing with divider := s.firing.divider.map (· - 1) } }

/-! ### Product starts (R82 to R84) -/

/-- One more missed product (R82). -/
def Counts.missed (c : Counts) : Counts := { c with productsMissed := satInc c.productsMissed }

/-- One more product started (R83). -/
def Counts.started (c : Counts) : Counts := { c with productsStarted := satInc c.productsStarted }

/-- An accepted product start (R83): the HOLD is removed, the start counted and the print state IN with the trim index
1. The counter of 0 stands for the immediate trigger of step 4, which follows when the items that come to the head
leave the print state IN. -/
def State.acceptProduct (s : State) : State :=
  let counted := s.countIn Counts.started
  { counted with queue := counted.queue.tail, firing := counted.firing.start 0 }

/-- The disposition of a product start (TABLE 4-5), in the order of its rows. -/
def State.productStart (s : State) : State :=
  if s.countingJob = none then s
  else if s.firing.print = .into then s.countIn Counts.missed
  else
    match s.queue with
    | .hold _ :: _ => if s.head.state = .ready then s.acceptProduct else s.countIn Counts.missed
    | _ => s.countIn Counts.missed

/-- An effective step at the firing section: the product start is judged first, and the step is then counted when the
print state was IN before it (R82). -/
def State.fireStep (s : State) (start : Bool) : State :=
  let judged := if start then s.productStart else s
  if s.firing.print = .into then judged.countStep else judged

/-! ### Free start and the entry to STOPPED or FAULTED -/

/-- The conditions of a free start (R75). -/
def State.freeStartReady (s : State) : Bool :=
  match s.queue with
  | .row .. :: _ => s.firing.print == .out && s.head.state == .ready && !s.rowShifting
  | _ => false

/-- A free start: print state IN, trim index 1, counter 1 (R75). -/
def State.freeStarted (s : State) : State := { s with firing := s.firing.start 1 }

/-- The firing section at the entry to STOPPED or FAULTED (R87). -/
def State.firingRest (s : State) : State := { s with firing := s.firing.rest }

end Sys2Proof.Machine
end

