-- ==== Sys2Proof/Machine/Tracker.lean ====
section
/-! DEFINITION. The position tracker (chapter 3): encoder steps, the web, the qualifier and the mark queue. -/

namespace Sys2Proof.Machine

/-- A change of the tracker alone. -/
def State.mapTracker (s : State) (f : Tracker → Tracker) : State := { s with tracker := f s.tracker }

/-- Every entry of the mark queue is removed (R66). -/
def Tracker.flush (t : Tracker) : Tracker := { t with marks := [] }

/-- The tracker at the entry to STOPPED or FAULTED: mark queue flushed, previous leading position none (R60, R66). -/
def Tracker.forget (t : Tracker) : Tracker := { t with marks := [], previous := none }

/-! ### Effective steps (R52 to R54, R57, R64) -/

/-- EPOS is incremented modulo 2^32 (R52). -/
def Tracker.advance (t : Tracker) : Tracker := { t with epos := t.epos + 1#32 }

/-- The still timer is restarted; a web found STILL becomes MOVING and sets WEB attention (R54). -/
def State.webStep (s : State) : State :=
  let moving := s.mapTracker fun t => { t with web := .moving, stillTimer := .running t.settings.stillTime }
  if s.tracker.web = .still then moving.raise .web else moving

/-- One more long mark (R57). -/
def Counts.long (c : Counts) : Counts := { c with marksLong := satInc c.marksLong }

/-- The width of a measurement is counted; a step that finds it at a MARK_MAX other than 0 rejects the mark as long
(R57). -/
def State.widthStep (s : State) : State :=
  match s.tracker.qualifier with
  | .waiting | .jammed _ => s
  | .measuring leading width captured =>
    if captured.max ≠ 0 ∧ width = captured.max then
      (s.countIn Counts.long).mapTracker fun t => { t with qualifier := .jammed captured.edge }
    else
      s.mapTracker fun t => { t with qualifier := .measuring leading (min (width + 1) Config.widthLimit) captured }

/-- The due check: whether the head of the mark queue is reached (R64). -/
def Tracker.due (t : Tracker) : Bool :=
  match t.marks with
  | [] => false
  | position :: _ => reached t.epos position

/-- The head of the mark queue is removed when it is due (R64). -/
def State.dueStep (s : State) : State :=
  if s.tracker.due then s.mapTracker fun t => { t with marks := t.marks.tail } else s

/-- An effective step, in the order of R53, and then at the firing section (R82). -/
def State.effectiveStep (s : State) : State :=
  let measured := ((s.mapTracker Tracker.advance).webStep).widthStep
  measured.dueStep.fireStep measured.tracker.due

/-! ### Reverse steps (R48 to R51) -/

/-- A job is held with registration to lose: the print state is IN or the mark queue holds an entry (R51). -/
def State.registering (s : State) : Bool := s.firing.print == .into || !s.tracker.marks.isEmpty

/-- A reverse-limit event (R51). -/
def State.reverseLimitEvent (s : State) : State :=
  let flushed := s.mapTracker fun t => { t.flush with debt := 0 }
  if s.registering then flushed.faultCounting .reverseLimit else flushed

/-- The tracker keeps a new line state (R48, R49). -/
def State.takeLines (s : State) (l : LineState) : State := s.mapTracker fun t => { t with line := l }

/-! ### Edges on MARK (R55 to R63) -/

/-- An active edge: in WAITING it begins a measurement with the settings in force (R56). -/
def Tracker.activeEdge (t : Tracker) : Tracker :=
  match t.qualifier with
  | .waiting => { t with qualifier := .measuring t.epos 0 t.settings.mark }
  | .measuring .. | .jammed _ => t

/-- One more short mark (R59). -/
def Counts.short (c : Counts) : Counts := { c with marksShort := satInc c.marksShort }

/-- One more close mark (R59). -/
def Counts.close (c : Counts) : Counts := { c with marksClose := satInc c.marksClose }

/-- One more dropped mark (R59). -/
def Counts.dropped (c : Counts) : Counts := { c with marksDropped := satInc c.marksDropped }

/-- A leading position lies less than `gap` steps past the previous one (R59). -/
def tooClose (leading : Word) (previous : Option Word) (gap : Nat) : Bool :=
  match previous with
  | none => false
  | some p => (leading - p).toNat < gap

/-- The engine keeps marks: it is RUNNING, DRAINING or ABANDONING (R60). -/
def EngineState.keepsMarks : EngineState → Bool
  | .running | .draining | .abandoning => true
  | .stopped | .faulted => false

/-- A mark is accepted: its due position goes to the tail of the mark queue (R63). -/
def Tracker.accept (t : Tracker) (leading : Word) (captured : MarkSettings) : Tracker :=
  { t with marks := t.marks ++ [leading + captured.delay], previous := some leading }

/-- The judgement of a mark at its inactive edge, in the order of R59. -/
def State.judgeMark (s : State) (leading : Word) (width : Nat) (captured : MarkSettings) : State :=
  if width < captured.min then s.countIn Counts.short
  else if tooClose leading s.tracker.previous captured.gap then s.countIn Counts.close
  else if !s.ctl.engine.keepsMarks then s
  else if Config.markCapacity ≤ s.tracker.marks.length then (s.countIn Counts.dropped).raise .markLost
  else s.mapTracker fun t => t.accept leading captured

/-- The qualifier returns to WAITING. -/
def Tracker.wait (t : Tracker) : Tracker := { t with qualifier := .waiting }

/-- An inactive edge: it judges the mark in MEASURING, ends the jam in JAMMED, and has no effect in WAITING (R58,
R59). -/
def State.inactiveEdge (s : State) : State :=
  match s.tracker.qualifier with
  | .waiting => s
  | .measuring leading width captured => (s.judgeMark leading width captured).mapTracker Tracker.wait
  | .jammed _ => s.mapTracker Tracker.wait

/-! ### Expiry of the still timer -/

/-- The web becomes STILL, WEB attention is set and the timer stands stopped (R54). -/
def State.stillExpired (s : State) : State :=
  (s.mapTracker fun t => { t with web := .still, stillTimer := .stopped }).raise .web

end Sys2Proof.Machine
end

