-- ==== Sys2Proof/Machine/Setup.lean ====
section
/-! DEFINITION. Applying a SETUP (R151 to R154): one event, at which every owner takes its new values. -/

namespace Sys2Proof.Machine

/-- The mark settings of a setup block (R153). -/
def markSettingsOf (p : SetupParams) : MarkSettings :=
  { edge := markEdgeOf p.markEdge, min := p.markMin, max := p.markMax, gap := p.markGap, delay := p.printDelay }

/-- The tracker settings of a setup block (R153). -/
def trackerSettingsOf (p : SetupParams) : TrackerSettings :=
  { mark := markSettingsOf p, reverseLimit := p.reverseLimit, stillTime := p.stillTime }

/-- The tracker's part: its settings replaced, and DEBT set to a new limit below it (R50, R153). -/
def Tracker.applySetup (t : Tracker) (p : SetupParams) : Tracker :=
  { t with settings := trackerSettingsOf p, debt := min t.debt p.reverseLimit }

/-- The firing section's part: PITCH and PITCH_TRIM replaced, print state OUT, trim index kept (R152, R70). -/
def Firing.applySetup (f : Firing) (p : SetupParams) : Firing :=
  { f with pitch := p.pitch, pitchTrim := p.pitchTrim, print := .out, divider := none }

/-- The parameters and the map go to their owners, and the staging area becomes empty (R151 to R154). -/
def State.applyParams (s : State) (p : SetupParams) (map : Option (List NozzleState)) : State :=
  State.applyHeadSetup
    { s with
      staging := .empty
      firing := s.firing.applySetup p
      mapper := s.mapper.applySetup p map
      tracker := s.tracker.applySetup p
      walker := { s.walker with pollInterval := p.pollInterval } } p

/-- What the staging area holds is applied. A SETUP in the queue always has its block staged (R150); with nothing
staged only the print state changes (log 31). -/
def State.applyStaged (s : State) : State :=
  match s.staging with
  | .empty => s.printOut
  | .block p => s.applyParams p none
  | .blockAndMap p map => s.applyParams p (some map)

end Sys2Proof.Machine
end

