-- ==== Sys2Proof/Machine/Builder.lean ====
section
/-! DEFINITION. The builder (chapters 1 and 2): reads, emission, the walk over layout entries and repeats, and the setup
build. -/

namespace Sys2Proof.Machine

/-- A change of the builder alone. -/
def State.mapBuilder (s : State) (f : Builder → Builder) : State := { s with builder := f s.builder }

/-- The building job (R2). -/
def State.buildingJob (s : State) : Option Job :=
  match s.builder.job with
  | none => none
  | some x => s.job x

/-- ENTRIES of the building job (R1). -/
def State.entries (s : State) : Nat :=
  match s.buildingJob with
  | none => 0
  | some j => j.entries

/-- The address `offset` bytes behind the header of the building job's record (R1, R39). -/
def State.bodyAddress (s : State) (offset : Nat) : Word :=
  match s.buildingJob with
  | none => 0#32
  | some j => j.record + BitVec.ofNat 32 (Config.headerBytes + offset)

/-! ### Reads (R27) -/

/-- The builder requests a burst read and stands in FETCHING. While a discarded read of it is outstanding the request
waits for that read to end (R26). -/
def State.requestRead (s : State) (kind : TxKind) (address : Word) (words : Nat) : State :=
  let t : Transaction := ⟨kind, address, words, 0#32, true⟩
  if s.port.outstanding .builder then
    s.mapBuilder fun b => { b with state := .fetching, want := some t }
  else
    (s.mapBuilder fun b => { b with state := .fetching, want := none }).request t

/-- The builder requests the read of entry `i` (R1, R27). -/
def State.requestEntry (s : State) (i : Nat) : State :=
  s.requestRead .entryRead (s.bodyAddress (Config.entryBytes * i)) 8

/-! ### Going on with the walk (R17) -/

/-- The builder goes on in WALKING with a task. -/
def State.walkOn (s : State) (task : BuildTask) : State :=
  s.mapBuilder fun b => { b with state := .walking, task := task }

/-- The walk goes on at an index (R17); past the last entry the index is ENTRIES until the END enters the queue
(log 35). -/
def State.walkAt (s : State) (index : Nat) : State :=
  s.mapBuilder fun b => { b with state := .walking, task := .entry, index := index }

/-- The walk goes on at an index with a new repeat stack. -/
def State.walkAtWith (s : State) (index : Nat) (stack : List RepeatContext) : State :=
  (s.mapBuilder fun b => { b with stack := stack }).walkAt index

/-! ### Emission (R28, R15) -/

/-- The END item has entered the queue: the job is BUILT, the builder FREE with walk index 0, and a look is owed (R21,
R41, R127). -/
def State.endBuilding (s : State) : State :=
  State.oweLook
    (match s.builder.job with
      | none => { s with builder := { Builder.reset with orphan := s.builder.orphan } }
      | some x =>
        State.mapJob { s with builder := { Builder.reset with orphan := s.builder.orphan } } x
          fun j => { j with phase := .built })

/-- What follows when the item of a task has entered the queue: the next row, the next entry, or the end (R6, R9, R17,
R21, R41). -/
def State.entered (s : State) (task : BuildTask) : State :=
  match task with
  | .image f o row =>
    if row + 1 < f.count then s.walkOn (.image f o (row + 1))
    else s.walkAt (s.builder.index + if o.isSome then 2 else 1)
  | .overlay f o row _ =>
    if row + 1 < f.count then s.walkOn (.image f (some o) (row + 1))
    else s.walkAt (s.builder.index + 2)
  | .blank row count =>
    if row + 1 < count then s.walkOn (.blank (row + 1) count) else s.walkAt (s.builder.index + 1)
  | .hold => s.walkAt (s.builder.index + 1)
  | .table _ => s.walkAt (s.builder.index + 1)
  | .setupItem => s.walkOn .finish
  | .finish => s.endBuilding
  | .none | .entry | .extension _ | .closeSlot _ | .setupBlock | .setupMap _ => s

/-- Every context of a repeat stack is marked as having emitted (R15). -/
def markEmitted (stack : List RepeatContext) : List RepeatContext :=
  stack.map fun c => { c with emitted := true }

/-- A ROW item joins the count of emitted rows of its job when it enters the queue (R47). -/
def State.countEmitted (s : State) (it : Item) : State :=
  match it with
  | .row x _ => s.mapJob x fun j => { j with account := { j.account with emitted := j.account.emitted + 1 } }
  | .hold _ | .swap _ | .setup _ | .finish _ => s

/-- An item is placed at the tail of the row queue, and sets EMITTED in every context on the stack (R28, R15). -/
def State.enqueue (s : State) (it : Item) : State :=
  let counted := s.countEmitted it
  { counted with
    queue := counted.queue ++ [it]
    builder := { counted.builder with stack := markEmitted counted.builder.stack, held := none } }

/-- The builder emits an assembled item: at once when the queue holds fewer than 8 items, else it waits in WAIT_ROOM
(R28). -/
def State.emit (s : State) (it : Item) : State :=
  if s.queue.length < Config.queueCapacity then (s.enqueue it).entered s.builder.task
  else s.mapBuilder fun b => { b with state := .waitRoom, held := some it }

/-! ### The end of the walk (R21) -/

/-- The walk ends: with an open repeat the job faults at the index given, else the END item follows (R21). -/
def State.endWalk (s : State) (faultIndex : Nat) : State :=
  if s.builder.stack.isEmpty then s.walkOn .finish else s.faultBuilding .repeatUnmatched faultIndex

/-- The OPEN index of the top context; 0 with the stack empty. -/
def Builder.topOpen (b : Builder) : Nat :=
  match b.stack with
  | [] => 0
  | c :: _ => c.openIndex

/-! ### Acting on the task in WALKING (R27 to R40) -/

/-- A true TABLE whose SRC is legal: it waits for a SWAP in the queue, else reads the table (R37). -/
def State.startTable (s : State) (src : Word) : State :=
  if s.queue.any Item.isSwap then s.mapBuilder fun b => { b with state := .waitStage }
  else s.requestRead .tableRead src 5

/-- The setup build begins: it waits for a SETUP in the queue, else reads the setup block (R39). -/
def State.startSetupBlock (s : State) : State :=
  if s.queue.any Item.isSetup then s.mapBuilder fun b => { b with state := .waitStage }
  else s.requestRead .setupBlockRead (s.bodyAddress 0) 16

/-- What the builder in WALKING does next with its task. -/
def State.actOn (s : State) (x : SlotId) (task : BuildTask) : State :=
  match task with
  | .entry =>
    if s.entries ≤ s.builder.index then s.endWalk s.builder.topOpen else s.requestEntry s.builder.index
  | .extension _ => s.requestEntry (s.builder.index + 1)
  | .closeSlot open_ => s.requestEntry open_.closeIndex
  | .image f _ row => s.requestRead .rowRead (f.rowAddress row) f.rowWords
  | .overlay _ o row _ => s.requestRead .overlayRead (o.rowAddress row) o.rowWords
  | .blank _ _ => s.emit (.row x Row.ofBlank)
  | .hold => s.emit (.hold x)
  | .table src => s.startTable src
  | .finish => s.emit (.finish x)
  | .setupBlock => s.startSetupBlock
  | .setupMap p => s.requestRead .mapRead p.mapAddress 40
  | .setupItem => s.emit (.setup x)
  | .none => s

/-! ### Conditions (R12) -/

/-- A condition on the pass number and LAST of the innermost context, and on the level of BATCH (TABLE 1-4). -/
def Condition.holds (c : Condition) (pass : Nat) (last batch : Bool) : Bool :=
  match c with
  | .always => true
  | .first => pass == 1
  | .notFirst => 1 < pass
  | .odd => pass % 2 == 1
  | .even => pass % 2 == 0
  | .last => last
  | .batchOn => batch
  | .batchOff => !batch

/-- The pass number a condition is judged by: 1 with the stack empty (R12). -/
def passOf : List RepeatContext → Nat
  | [] => 1
  | c :: _ => c.pass

/-- LAST: the innermost context is counted and in its last pass (R12). -/
def lastOf : List RepeatContext → Bool
  | [] => false
  | c :: _ => c.count == some c.pass

/-- The condition of an entry, as judged at its walk (R12, R13). -/
def State.condition (s : State) (c : Condition) (batch : Bool) : Bool :=
  c.holds (passOf s.builder.stack) (lastOf s.builder.stack) batch

/-! ### The kinds (R5 to R11, R18 to R21) -/

/-- ENTRY_ILLEGAL at an index. -/
def State.illegalEntry (s : State) (index : Nat) : State := s.faultBuilding .entryIllegal index

/-- A true IMAGE without EXT (R5, R6). -/
def State.startImage (s : State) (e : Entry) : State :=
  if e.imageFields.legal then s.walkOn (.image e.imageFields none 0) else s.illegalEntry s.builder.index

/-- An IMAGE at the walk index (R6, R7): with EXT the pairing check comes first, whatever the condition. -/
def State.walkImage (s : State) (e : Entry) (batch : Bool) : State :=
  if e.ext then
    if s.builder.index + 1 = s.entries then s.illegalEntry s.builder.index else s.walkOn (.extension e)
  else if s.condition e.cond batch then s.startImage e
  else s.walkAt (s.builder.index + 1)

/-- An IMAGE with EXT, its next slot read (R7, R8). -/
def State.walkPair (s : State) (image ext : Entry) (batch : Bool) : State :=
  if ext.kind ≠ some .overlayExt then s.illegalEntry s.builder.index
  else if ext.cond ≠ .always then s.illegalEntry (s.builder.index + 1)
  else if !s.condition image.cond batch then s.walkAt (s.builder.index + 2)
  else if !image.imageFields.legal then s.illegalEntry s.builder.index
  else if !ext.overlayFields.legal image.count then s.illegalEntry (s.builder.index + 1)
  else s.walkOn (.image image.imageFields (some ext.overlayFields) 0)

/-- A BLANK at the walk index (R9). -/
def State.walkBlank (s : State) (e : Entry) (batch : Bool) : State :=
  if !s.condition e.cond batch then s.walkAt (s.builder.index + 1)
  else if e.count = 0 then s.illegalEntry s.builder.index
  else s.walkOn (.blank 0 e.count)

/-- A WAIT_MARK at the walk index (R10, R36). -/
def State.walkWaitMark (s : State) (e : Entry) (batch : Bool) : State :=
  if s.condition e.cond batch then s.walkOn .hold else s.walkAt (s.builder.index + 1)

/-- A TABLE at the walk index (R11). -/
def State.walkTable (s : State) (e : Entry) (batch : Bool) : State :=
  if !s.condition e.cond batch then s.walkAt (s.builder.index + 1)
  else if !aligned 4 e.src then s.illegalEntry s.builder.index
  else s.walkOn (.table e.src)

/-- A REPEAT_OPEN at the walk index: steps 1 and 2 of R18, and the read of step 3. -/
def State.walkOpen (s : State) (e : Entry) : State :=
  if e.cond ≠ .always then s.illegalEntry s.builder.index
  else if ¬(s.builder.index < e.closeIndex ∧ e.closeIndex < s.entries) then
    s.faultBuilding .repeatUnmatched s.builder.index
  else s.walkOn (.closeSlot e)

/-- CLOSE lies strictly inside the top context, if there is one (R18). -/
def insideTop (stack : List RepeatContext) (close : Nat) : Bool :=
  match stack with
  | [] => true
  | c :: _ => close < c.closeIndex

/-- The context a REPEAT_OPEN pushes (R18). -/
def Entry.newContext (e : Entry) (index : Nat) : RepeatContext :=
  { openIndex := index
    closeIndex := e.closeIndex
    count := if e.forever then none else some e.count
    pass := 1
    emitted := false }

/-- A REPEAT_OPEN with the entry at its CLOSE read: steps 3 to 7 of R18. -/
def State.walkOpened (s : State) (e close : Entry) : State :=
  if close.kind ≠ some .repeatClose then s.faultBuilding .repeatUnmatched s.builder.index
  else if !insideTop s.builder.stack e.closeIndex then s.faultBuilding .repeatUnmatched s.builder.index
  else if e.count = 0 ∧ e.forever = false then s.walkAt (e.closeIndex + 1)
  else if Config.stackDepth ≤ s.builder.stack.length then s.faultBuilding .repeatDepth s.builder.index
  else s.walkAtWith (s.builder.index + 1) (e.newContext s.builder.index :: s.builder.stack)

/-- The pass after `p`; after 4,294,967,295 comes 2 (R16). -/
def nextPass (p : Nat) : Nat := if p = 4294967295 then 2 else p + 1

/-- One more pass of an outermost repeat (R19). -/
def Counts.outerPass (c : Counts) : Counts := { c with outerPasses := satInc c.outerPasses }

/-- A pass of an outermost repeat is counted in the building job: the stack holds one context (R19). -/
def State.countPass (s : State) (below : List RepeatContext) : State :=
  match below, s.builder.job with
  | [], some x => s.mapCounts x Counts.outerPass
  | _, _ => s

/-- A context begins a new pass unless it is counted and in its last (R19). -/
def RepeatContext.goesOn (c : RepeatContext) : Bool :=
  match c.count with
  | none => true
  | some n => c.pass < n

/-- A REPEAT_CLOSE at the walk index (R19). -/
def State.walkClose (s : State) (e : Entry) : State :=
  if e.cond ≠ .always then s.illegalEntry s.builder.index
  else
    match s.builder.stack with
    | [] => s.faultBuilding .repeatUnmatched s.builder.index
    | c :: below =>
      if c.closeIndex ≠ s.builder.index then s.faultBuilding .repeatUnmatched s.builder.index
      else if c.count = none ∧ c.emitted = false then s.faultBuilding .emptyPass s.builder.index
      else if c.goesOn then
        (s.countPass below).walkAtWith (c.openIndex + 1)
          ({ c with pass := nextPass c.pass, emitted := false } :: below)
      else (s.countPass below).walkAtWith (s.builder.index + 1) below

/-- A REPEAT_EXIT at the walk index (R20). -/
def State.walkExit (s : State) (e : Entry) (batch : Bool) : State :=
  match s.builder.stack with
  | [] => s.faultBuilding .repeatUnmatched s.builder.index
  | c :: below =>
    if s.condition e.cond batch then s.walkAtWith (c.closeIndex + 1) below else s.walkAt (s.builder.index + 1)

/-- An END at the walk index (R21). -/
def State.walkEnd (s : State) (e : Entry) (batch : Bool) : State :=
  if s.condition e.cond batch then s.endWalk s.builder.index else s.walkAt (s.builder.index + 1)

/-- The walk of the entry at the walk index (R3, R4). -/
def State.walkEntry (s : State) (e : Entry) (batch : Bool) : State :=
  match e.kind with
  | none => s.illegalEntry s.builder.index
  | some .image => s.walkImage e batch
  | some .overlayExt => s.illegalEntry s.builder.index
  | some .blank => s.walkBlank e batch
  | some .waitMark => s.walkWaitMark e batch
  | some .table => s.walkTable e batch
  | some .repeatOpen => s.walkOpen e
  | some .repeatClose => s.walkClose e
  | some .repeatExit => s.walkExit e batch
  | some .finish => s.walkEnd e batch

/-! ### Reads that end (R27 to R40) -/

/-- A bus error on a read of the builder gives FETCH_BUS at an index (R1, R18, R35, R37, R41). -/
def State.fetchError (s : State) (index : Nat) : State := s.faultBuilding .fetchBus index

/-- The fault entry index of a bus error on an entry read: the extension's own, the REPEAT_OPEN's for its CLOSE slot,
else the entry walked (R1, R7, R18). -/
def Builder.entryErrorIndex (b : Builder) : Nat :=
  match b.task with
  | .extension _ => b.index + 1
  | _ => b.index

/-- An entry read ends (R27). -/
def State.entryRead (s : State) (result : ReadResult) (batch : Bool) : State :=
  match result with
  | .busError => s.fetchError s.builder.entryErrorIndex
  | .data words =>
    match s.builder.task with
    | .entry => s.walkEntry (Entry.ofWords words) batch
    | .extension image => s.walkPair image (Entry.ofWords words) batch
    | .closeSlot open_ => s.walkOpened open_ (Entry.ofWords words)
    | _ => s

/-- The ROW item of an image row in the building job (R34). -/
def State.emitRow (s : State) (dots : List Dot) : State :=
  match s.builder.job with
  | none => s
  | some x => s.emit (.row x ⟨false, dots⟩)

/-- An image row read ends: the row is emitted, or its overlay is read first (R29 to R32, R34, R35). -/
def State.rowRead (s : State) (result : ReadResult) : State :=
  match result with
  | .busError => s.fetchError s.builder.index
  | .data words =>
    match s.builder.task with
    | .image f none _ => s.emitRow (f.dots words)
    | .image f (some o) row =>
      if o.carries row then s.walkOn (.overlay f o row (f.dots words)) else s.emitRow (f.dots words)
    | _ => s

/-- An overlay row read ends, and the row is emitted with its overlay (R32 to R35). -/
def State.overlayRead (s : State) (result : ReadResult) : State :=
  match result with
  | .busError => s.fetchError (s.builder.index + 1)
  | .data words =>
    match s.builder.task with
    | .overlay f o _ dots => s.emitRow (o.lay f.opaqueFlag words dots)
    | _ => s

/-- A SWAP item of the building job is emitted (R37). -/
def State.emitSwap (s : State) : State :=
  match s.builder.job with
  | none => s
  | some x => s.emit (.swap x)

/-- A table read ends: the standby bank is written and the SWAP emitted (R37, R38). -/
def State.tableRead (s : State) (result : ReadResult) : State :=
  match result with
  | .busError => s.fetchError s.builder.index
  | .data words => { s with mapper := s.mapper.loadStandby (dropTableOf words) }.emitSwap

/-- A validated setup block is staged, with or without a map, and the SETUP item assembled (R39, R40, R150). -/
def State.stage (s : State) (staging : Staging) : State := { s with staging := staging }.walkOn .setupItem

/-- A setup block read ends (R39, R41, R149). -/
def State.setupBlockRead (s : State) (result : ReadResult) : State :=
  match result with
  | .busError => s.fetchError 0
  | .data words =>
    let p := SetupParams.ofWords words
    if !p.inRange then s.faultBuilding .setupRange 0
    else if p.mapAddress = 0#32 then s.stage (.block p)
    else s.walkOn (.setupMap p)

/-- A nozzle map read ends (R40, R41). -/
def State.mapRead (s : State) (result : ReadResult) : State :=
  match result with
  | .busError => s.fetchError 0
  | .data words =>
    match s.builder.task, nozzleMapOf words with
    | .setupMap p, some map => s.stage (.blockAndMap p map)
    | .setupMap _, none => s.faultBuilding .setupRange 0
    | _, _ => s

/-! ### The builder's own steps -/

/-- A held item enters the queue when there is room (R28). -/
def State.enterHeld (s : State) (it : Item) : State := (s.enqueue it).entered s.builder.task

/-- What the builder in WAIT_STAGE waits for has left the queue (R37, R39). -/
def State.stageFree (s : State) : Bool :=
  match s.builder.task with
  | .table _ => !s.queue.any Item.isSwap
  | .setupBlock => !s.queue.any Item.isSetup
  | _ => true

/-- The builder leaves FREE for a job taken with a valid header (R26, R39). -/
def State.beginBuild (s : State) (x : SlotId) (kind : BitVec 2) : State :=
  s.mapBuilder fun b =>
    { Builder.reset with
      state := .walking, job := some x, orphan := b.orphan
      task := if isPrintKind kind then .entry else .setupBlock }

end Sys2Proof.Machine
end

