-- ==== Sys2Proof/Machine/Control.lean ====
section
/-! DEFINITION. The control block's entries (chapter 9): leaving RUNNING, ABANDONING, STOPPED, FAULTED, and the resets.
TAKING A CHAIN FAULT is one operation here (`State.chainFault`), written from R136 and the rules it cites. -/

namespace Sys2Proof.Machine

/-! ### REFUSED (R159) -/

/-- The REFUSED field of STATUS. -/
def State.setRefused (s : State) (b : Bool) : State := { s with ctl := { s.ctl with refused := b } }

/-- The engine state becomes what is given, with nothing else. -/
def State.setEngine (s : State) (e : EngineState) : State := { s with ctl := { s.ctl with engine := e } }

/-! ### The walker when the engine leaves RUNNING (R128, R135) -/

/-- What becomes of the look in progress: before the exchange is issued its read is discarded, a skip that waits for
its release ends, and a take in progress, its exchange granted or not, goes on (R135, logs 13 and 37). -/
def Walker.endLook (w : Walker) : Walker :=
  match w.stage with
  | .none => { w with state := .idle }
  | .link | .state _ | .header _ | .discarding => { w with stage := .discarding }
  | .exchange .. => w
  | .releaseWait => { w with state := .idle, stage := .none }

/-- A read of the walker is in progress or requested. -/
def LookStage.reads : LookStage → Bool
  | .link | .state _ | .header _ | .discarding => true
  | .none | .exchange .. | .releaseWait => false

/-- The walker ceases to look: look owed is cleared and the poll timer stopped (R127, R129, R161). A read of the look is
discarded when it ends; one that is requested and not yet granted is granted all the same (log 34). -/
def State.ceaseLooking (s : State) : State :=
  { s with
    port := if s.walker.stage.reads then s.port.disown .walker else s.port
    walker := { s.walker.endLook with lookOwed := false, pollTimer := .stopped } }

/-! ### ABANDONING (R163) -/

/-- HALTED for one held job, unless it carries a fault or is COMPLETING (R163). -/
def State.haltJob (s : State) (x : SlotId) : State := s.takeFault x .halted 0

/-- The entry to ABANDONING (R163): the shift aborted, tickle and its timers stopped, the print state OUT, every held job
given HALTED and the walker's looks ended, with look owed clear. The head state and the warm-up timer are kept (R112). -/
def State.enterAbandoning (s : State) : State :=
  let aborted := ((s.setEngine .abandoning).abortShift).tickleOff
  let quieted : State := { aborted with head := { aborted.head with idleTimer := .stopped } }
  ((quieted.printOut.haltJob .slot0).haltJob .slot1).ceaseLooking

/-! ### STOPPED (R162) -/

/-- A take is in progress: its exchange is issued and has not ended (TABLE 7-3). It is issued when it is requested of
the port (log 37). -/
def LookStage.taking : LookStage → Bool
  | .exchange .. => true
  | .none | .link | .state _ | .header _ | .releaseWait | .discarding => false

/-- The four conditions under which a drain or an abandon ends (R162). -/
def State.quietEngine (s : State) : Bool :=
  s.slots.slot0.isNone && s.slots.slot1.isNone && !s.walker.stage.taking && s.writer.list.isEmpty &&
    !s.port.outstanding .walker

/-- The entry to STOPPED (R162). -/
def State.enterStopped (s : State) : State :=
  State.raise
    (State.headOff
      (State.firingRest
        (State.mapTracker
          { s.setEngine .stopped with walker := { s.walker with state := .idle, stage := .none } } Tracker.forget)))
    .stopped

/-! ### FAULTED (R136) -/

/-- The port at the entry to FAULTED: the transaction in progress completes, its outcome is discarded, and none is made
after it (R136, R166). A chain fault is made at the end of a transaction, so the port is free, and the grant that R145
makes at that end gives the transaction in progress at the entry: a read that waits, of the builder (R46) or of the
walker, or an exchange that waits (R135). A request of the writer makes no transaction (R136, log 12). -/
def Port.atFault (p : Port) : Port :=
  { current := (if p.current.isSome then p else { p with writerReq := none }.grantNext).current.map Transaction.disowned
    builderReq := none
    writerReq := none
    walkerReq := none
    builderWaited := false }

/-- The walker at the entry to FAULTED: IDLE, look owed clear, the poll timer stopped; the anchor is kept (R136). -/
def Walker.atFault (w : Walker) : Walker :=
  { w with state := .idle, lookOwed := false, pollTimer := .stopped, stage := .none }

/-- A chain fault (R136): the engine enters FAULTED with its cause shown and CHAIN attention set, and every block lets
go of its work. In FAULTED there is no second one. -/
def State.chainFault (s : State) (cause : ChainCause) : State :=
  if s.ctl.engine = .faulted then s
  else
    State.raise
      (State.headOff
        (State.firingRest
          (State.mapTracker
            { s with
              ctl := { s.ctl with engine := .faulted, chainCause := cause }
              slots := Slots.reset
              writer := ⟨[], 0⟩
              queue := []
              staging := .empty
              builder := Builder.reset
              port := s.port.atFault
              walker := s.walker.atFault } Tracker.forget)))
      .chain

/-! ### Resets (R170, R171, R146) -/

/-- What a reset leaves on the bus of one transaction in progress (R146): the single transfer under way completes, so
the single write of a result word is made. The write of a locked transaction is wholly made or not begun (log 29). -/
def Transaction.busAtReset (t : Transaction) : BusOut :=
  match t.kind with
  | .resultWrite => .wrote t.address t.value
  | .takeExchange | .stateUpdate | .release => .mayHaveWritten t.address
  | .entryRead | .rowRead | .overlayRead | .tableRead | .setupBlockRead | .mapRead | .linkRead | .stateRead
  | .headerRead => .nothing

/-- What a reset leaves on the bus (R146); a request that waits for the port makes no transfer. -/
def Port.busAtReset (p : Port) : BusOut := (p.current.map Transaction.busAtReset).getD .nothing

/-- A reset, with the anchor, the enables, the pins and the pulses on HL_CLR given (R170, R171). -/
def State.resetTo (s : State) (anchor : Word) (attnEn : BitVec 8) (pins : Pins) (clr : Nat) : State :=
  { State.afterReset anchor attnEn pins s.free s.pending with outs := ⟨none, clr, s.port.busAtReset⟩ }

/-- The pulses a soft reset gives on HL_CLR: one for a shift it ends (R116), and one that a soft reset gives in every
state of the head, OFF too (R106, R172, log 16). -/
def HeadLink.clearPulses (h : HeadLink) : Nat := (h.shift != .idle).toNat + 1

/-- The soft reset: the anchor and the attention enables are kept (R171). -/
def State.softReset (s : State) : State := s.resetTo s.walker.anchor s.ctl.attnEn s.pins s.head.clearPulses

/-- The RESET input goes active: every block stands at its reset values (R170). HL_CLR is not pulsed but held asserted
(R172, `State.clrLevel`). -/
def State.pinReset (s : State) : State := s.resetTo 0#32 0#8 { s.pins with resetActive := true } 0

/-- The RESET input goes inactive: the tracker takes the levels then on the encoder lines (R170, R48). -/
def State.pinRelease (s : State) : State :=
  { s with pins := { s.pins with resetActive := false }, tracker := { s.tracker with line := s.pins.enc } }

end Sys2Proof.Machine
end

