-- ==== Sys2Proof/Machine/Walker.lean ====
section
/-! DEFINITION. The record walker (R126 to R135): looks along the chain, takes and skips. -/

namespace Sys2Proof.Machine

/-- A change of the walker alone. -/
def State.mapWalker (s : State) (f : Walker → Walker) : State := { s with walker := f s.walker }

/-- The walker requests a transaction and stands at a stage of its look. -/
def State.lookOn (s : State) (stage : LookStage) (kind : TxKind) (address : Word) (words : Nat) : State :=
  (s.mapWalker fun w => { w with state := .looking, stage := stage }).request ⟨kind, address, words, 0#32, true⟩

/-! ### The beginning and the end of a look (R128, R129) -/

/-- The walker's release waits or is in progress (R128). -/
def Writer.releasing (w : Writer) : Bool :=
  w.list.any fun t =>
    match t with
    | .release _ => true
    | .completion .. => false

/-- The conditions of a chain look (R128). -/
def State.lookReady (s : State) : Bool :=
  s.walker.lookOwed && s.ctl.engine == .running && s.builder.state == .free && s.slots.freeSlot.isSome &&
    s.walker.state != .looking && !s.writer.releasing

/-- The read of the anchor's LINK, at offset 4 of the record (R130, TABLE 10-1). -/
def State.readLink (s : State) : State := s.lookOn .link .linkRead (s.walker.anchor + 4#32) 1

/-- A look begins: look owed is cleared and the poll timer stopped (R128, R130). -/
def State.beginLook (s : State) : State :=
  (s.mapWalker fun w => { w with lookOwed := false, pollTimer := .stopped }).readLink

/-- The look ends with no wait: the walker is IDLE. -/
def State.endLookIdle (s : State) : State := s.mapWalker fun w => { w with state := .idle, stage := .none }

/-- The look ends in a wait: in RUNNING with look owed clear the walker is WAITING with its poll timer started,
otherwise IDLE (R128, R129, R135). -/
def State.endLookWait (s : State) : State :=
  if s.ctl.engine = .running ∧ s.walker.lookOwed = false then
    s.mapWalker fun w =>
      { w with state := .waiting, stage := .none, pollTimer := .running w.pollInterval }
  else s.endLookIdle

/-! ### The reads of a look (R130 to R132) -/

/-- The LINK word is read (R130). -/
def State.linkRead (s : State) (result : WordResult) : State :=
  match s.walker.stage with
  | .link =>
    match result with
    | .busError => s.chainFault .readBus
    | .data link =>
      if link = 0#32 then s.endLookWait
      else if !aligned 32 link then s.chainFault .linkMisaligned
      else s.lookOn (.state link) .stateRead link 1
  | _ => s

/-- The anchor moves to a record and the previous anchor is handed to the record writer for release (R133, R134). -/
def State.moveAnchor (s : State) (record : Word) : State :=
  (s.mapWalker fun w => { w with anchor := record }).addTask (.release s.walker.anchor)

/-- A WITHDRAWN record is skipped: the look goes on when the release has ended, or, with the engine no longer RUNNING,
ends (R134, R135). The engine state is the one at this moment: a look that a STOP found with its take in progress goes on
when a START has made the engine RUNNING again (log 33). -/
def State.skipRecord (s : State) (record : Word) : State :=
  if s.ctl.engine = .running then
    (s.moveAnchor record).mapWalker fun w => { w with state := .looking, stage := .releaseWait }
  else (s.moveAnchor record).endLookIdle

/-- The state word of the linked record is read (R131). -/
def State.stateRead (s : State) (result : WordResult) : State :=
  match s.walker.stage with
  | .state linked =>
    match result with
    | .busError => s.chainFault .readBus
    | .data w =>
      if released w then s.chainFault .staleState
      else
        match recordState w with
        | some .empty => s.endLookWait
        | some .ready => s.lookOn (.header linked) .headerRead linked 12
        | some .withdrawn => s.skipRecord linked
        | some .taken | some .done | some .faulted | none => s.chainFault .staleState
  | _ => s

/-- The header of the linked record is read, and the exchange of the take issued (R132): the request of the port is the
issue, before any grant (log 37). -/
def State.headerRead (s : State) (result : ReadResult) : State :=
  match s.walker.stage with
  | .header linked =>
    match result with
    | .busError => s.chainFault .readBus
    | .data words => s.lookOn (.exchange linked (Header.ofWord (wordAt words 0))) .takeExchange linked 1
  | _ => s

/-! ### The take (R132, R133) -/

/-- The slot fields of a job at its take (R137). -/
def Header.toJob (h : Header) (record : Word) (phase : Phase) (fault : Option (FaultCode × Nat)) : Job :=
  { record := record
    kind := h.kind
    entries := h.entries
    notify := h.notify
    strict := h.strict
    phase := phase
    fault := fault
    counts := Counts.zero
    account := ⟨0, 0, 0⟩ }

/-- A job taken with a completion that begins at once: it enters COMPLETING with a fault, and its completion and the
release of the previous anchor are handed to the record writer together, in either order (R133, R135, R141). The end of
its building is a cause of a look (R127). -/
def State.takeFaulted (s : State) (x : SlotId) (record : Word) (h : Header) (code : FaultCode) : State :=
  let placed := (s.mapWalker fun w => { w with anchor := record }).placeJob x
    (h.toJob record .completing (some (code, 0)))
  (placed.addTasks (.release s.walker.anchor) (placed.completionOf x)).oweLook

/-- A job taken with a valid header: it enters BUILDING, and the builder leaves FREE for it (R133, R26). -/
def State.takeValid (s : State) (x : SlotId) (record : Word) (h : Header) : State :=
  ((s.moveAnchor record).placeJob x (h.toJob record .building none)).beginBuild x h.kind

/-- The record is taken (R133); in ABANDONING a job with a valid header takes HALTED in the same event (R135). A look
begins only with a slot free, so a take never finds both held; then it would place no job (log 26). -/
def State.take (s : State) (record : Word) (h : Header) : State :=
  State.endLookIdle
    (match s.slots.freeSlot with
      | none => s.moveAnchor record
      | some x =>
        if !h.valid then s.takeFaulted x record h .headerInvalid
        else if s.ctl.engine = .abandoning then s.takeFaulted x record h .halted
        else s.takeValid x record h)

/-- The exchange of a take ends, in whatever engine state the take is in progress (R132, R135). -/
def State.exchangeDone (s : State) (result : WordResult) : State :=
  match s.walker.stage with
  | .exchange linked h =>
    match result with
    | .busError => s.chainFault .readBus
    | .data w =>
      if released w then s.chainFault .staleState
      else
        match recordState w with
        | some .ready => s.take linked h
        | some .withdrawn => s.skipRecord linked
        | some .empty => s.endLookWait
        | some .taken | some .done | some .faulted | none => s.chainFault .staleState
  | _ => s

/-- What the exchange put on the bus: TAKEN over READY with RELEASED clear, else nothing; a bus error leaves it open
(R132, R146). -/
def exchangeBus (address : Word) (result : WordResult) : BusOut :=
  match result with
  | .busError => .mayHaveWritten address
  | .data w =>
    if released w = false ∧ recordState w = some .ready then .wrote address (takenWord w) else .nothing

/-- The release of a skipped-past record has ended, and the look goes on with the new anchor's LINK (R134). -/
def State.releaseEnded (s : State) : State :=
  match s.walker.stage with
  | .releaseWait => s.readLink
  | _ => s

/-! ### The poll timer (R129) -/

/-- The poll timer expires: the walker is no longer WAITING, and a look is owed (R127, R129). -/
def State.pollExpired (s : State) : State :=
  (s.mapWalker fun w => { w with state := .idle, pollTimer := .stopped }).oweLook

end Sys2Proof.Machine
end

