-- ==== Sys2Proof/Machine/Writer.lean ====
section
/-! DEFINITION. The record writer (R141 to R143): the transactions of its head task and their ends. -/

namespace Sys2Proof.Machine

/-- The transaction the head task asks for next (R125, R142): of a completion, the nine result writes in ascending order
of address and then the state update. -/
def State.nextWrite (s : State) : Option Transaction :=
  match s.writer.list with
  | [] => none
  | .release record :: _ => some ⟨.release, record, 1, 0#32, true⟩
  | .completion x endPosition :: _ =>
    match s.job x with
    | none => none
    | some j =>
      if s.writer.written < resultWords then
        some ⟨.resultWrite, j.record + resultOffset s.writer.written, 1,
          resultWord j.counts endPosition s.writer.written, true⟩
      else some ⟨.stateUpdate, j.record, 1, 0#32, true⟩

/-- What the transaction put on the bus (R146). -/
def State.onBus (s : State) (bus : BusOut) : State := { s with outs := { s.outs with bus := bus } }

/-- The head task is removed when its last transaction has ended (R141). -/
def State.removeTask (s : State) : State := { s with writer := ⟨s.writer.list.tail, 0⟩ }

/-- What a result write put on the bus: its word, or, after a bus error, that is left open (R142, R146). -/
def Transaction.resultBus (t : Transaction) (result : WriteResult) : BusOut :=
  match result with
  | .busError => .mayHaveWritten t.address
  | .done => .wrote t.address t.value

/-- What a release put on the bus: RELEASED alone set in the word read, or, after a bus error, that is left open (R125,
R146). -/
def releaseBus (address : Word) (result : WordResult) : BusOut :=
  match result with
  | .busError => .mayHaveWritten address
  | .data w => .wrote address (releasedWord w)

/-- A result write ends (R142, R143). -/
def State.resultWritten (s : State) (t : Transaction) (result : WriteResult) : State :=
  match result with
  | .busError => (s.onBus (t.resultBus result)).chainFault .writeBus
  | .done => { s.onBus (t.resultBus result) with writer := { s.writer with written := s.writer.written + 1 } }

/-- The attention of a completed job: FAULT for one FAULTED, DONE for one DONE with NOTIFY set (R142). -/
def State.completionAttention (s : State) (j : Job) : State :=
  match j.fault with
  | some _ => s.raise .fault
  | none => if j.notify then s.raise .done else s

/-- The state update of a completion has written STATE: the slot is freed, the task removed, attention set and a look
owed (R142). -/
def State.completed (s : State) (t : Transaction) (w : Word) : State :=
  match s.writer.list with
  | .completion x _ :: _ =>
    match s.job x with
    | none => s
    | some j =>
      ((((s.onBus (.wrote t.address (completedWord w j.fault))).freeJob x).removeTask).completionAttention j).oweLook
  | _ => s

/-- A state update ends (R142, R143). -/
def State.stateUpdated (s : State) (t : Transaction) (result : WordResult) : State :=
  match result with
  | .busError => (s.onBus (.mayHaveWritten t.address)).chainFault .writeBus
  | .data w => if recordState w = some .taken then s.completed t w else s.chainFault .staleState

/-- The release at the head of the list is removed when its transaction has ended, and the walker is told (R141, R134). -/
def State.finishRelease (s : State) : State :=
  match s.writer.list with
  | .release _ :: _ => s.removeTask.releaseEnded
  | _ => s

/-- A release ends: RELEASED alone is set in the word read (R125, R141, R143). -/
def State.releaseDone (s : State) (t : Transaction) (result : WordResult) : State :=
  match result with
  | .busError => (s.onBus (releaseBus t.address result)).chainFault .writeBus
  | .data _ => (s.onBus (releaseBus t.address result)).finishRelease

end Sys2Proof.Machine
end

