-- ==== Sys2Proof/Machine/Rest.lean ====
section
/-! DEFINITION. The block's own steps: what the part does by itself as soon as its conditions hold. A command that makes
such conditions hold carries them out (`State.rest`, log 1); a command that names one of them is that same step. -/

namespace Sys2Proof.Machine

/-! ### Items at the queue head (R71 to R74) -/

/-- A SWAP at the head is taken: the banks exchange roles (R71, R94). -/
def State.takeSwap (s : State) : State := { s with queue := s.queue.tail, mapper := s.mapper.exchange }

/-- A SETUP at the head is taken and applied (R72, R151). -/
def State.takeSetup (s : State) : State := { s with queue := s.queue.tail }.applyStaged

/-- An END at the head is taken: the completion of its job begins (R73, R88). -/
def State.takeEnd (s : State) (x : SlotId) : State := { s with queue := s.queue.tail }.beginCompletion x

/-- END_TAKEN: an END at the head whose job has no row shift in flight (R73). -/
def State.tryEnd (s : State) : Option State :=
  match s.queue with
  | .finish x :: _ => if s.shifting x then none else some (s.takeEnd x)
  | _ => none

/-- The head item is taken, or makes the print state OUT, when its kind allows (TABLE 4-3). -/
def State.tryHead (s : State) : Option State :=
  match s.queue with
  | .swap _ :: _ => some s.takeSwap
  | .setup _ :: _ => some s.takeSetup
  | .hold _ :: _ => if s.firing.print = .into then some s.printOut else none
  | .finish _ :: _ => s.tryEnd
  | .row .. :: _ => none
  | [] => none

/-! ### Divider, builder, free start (R76, R28, R37, R75) -/

/-- DIVIDER_EXPIRY: the counter of a running divider has reached 0 (R76). -/
def State.tryDivider (s : State) : Option State :=
  if s.firing.print = .into ∧ s.firing.divider = some 0 then some s.dividerExpires else none

/-- HELD_ITEM_ENTER: the builder holds an item and the queue has room (R28). -/
def State.tryHeld (s : State) : Option State :=
  match s.builder.state, s.builder.held with
  | .waitRoom, some it => if s.queue.length < Config.queueCapacity then some (s.enterHeld it) else none
  | _, _ => none

/-- STAGE_WAIT_END: what the builder waits for has left the queue (R37, R39). -/
def State.tryStage (s : State) : Option State :=
  match s.builder.state, s.builder.job with
  | .waitStage, some x => if s.stageFree then some ((s.walkOn s.builder.task).actOn x s.builder.task) else none
  | _, _ => none

/-- The builder in WALKING goes on with its task. -/
def State.tryWalk (s : State) : Option State :=
  match s.builder.state, s.builder.job with
  | .walking, some x => if s.builder.task = .none then none else some (s.actOn x s.builder.task)
  | _, _ => none

/-- FREE_START (R75). -/
def State.tryFree (s : State) : Option State := if s.freeStartReady then some s.freeStarted else none

/-! ### Completions and the end of a drain (R140, R162) -/

/-- The faulted job in a slot can begin its completion: no read of it is outstanding and no row shift of its row is in
flight (R140). -/
def State.completionReady (s : State) (x : SlotId) : Bool :=
  match s.job x with
  | none => false
  | some j =>
    j.fault.isSome && j.phase != .completing && s.builder.job != some x && s.builder.orphan != some x &&
      !s.shifting x

/-- COMPLETION_BEGIN, for one slot (R140). -/
def State.tryCompletion (s : State) (x : SlotId) : Option State :=
  if s.completionReady x then some (s.beginCompletion x) else none

/-- Both faulted jobs begin their completions: their tasks are added in either order (R141, log 9). -/
def State.beginBoth (s : State) : State :=
  ((s.completing .slot0).completing .slot1).addTasks (s.completionOf .slot0) (s.completionOf .slot1)

/-- The completions that can begin. -/
def State.tryCompletions (s : State) : Option State :=
  if s.completionReady .slot0 && s.completionReady .slot1 then some s.beginBoth
  else (s.tryCompletion .slot0).or (s.tryCompletion .slot1)

/-- DRAIN_END (R162). -/
def State.tryDrainEnd (s : State) : Option State :=
  if (s.ctl.engine = .draining ∨ s.ctl.engine = .abandoning) ∧ s.quietEngine then some s.enterStopped else none

/-! ### Looks and the memory port (R128, R26, R141, R145) -/

/-- CHAIN_LOOK (R128). -/
def State.tryLook (s : State) : Option State := if s.lookReady then some s.beginLook else none

/-- The record writer requests the next transaction of its head task (R141). -/
def State.tryWriter (s : State) : Option State :=
  if s.port.outstanding .writer then none else s.nextWrite.map s.request

/-- The builder requests a read that waited for a discarded one to end (R26). -/
def State.tryWant (s : State) : Option State :=
  if s.port.outstanding .builder then none
  else s.builder.want.map fun t => (s.mapBuilder fun b => { b with want := none }).request t

/-- PORT_GRANT: the port is free and a request waits (R145). In FAULTED no transaction begins (R166). -/
def State.tryGrant (s : State) : Option State :=
  if s.port.current.isSome || s.ctl.engine == .faulted then none
  else s.port.granted.map fun r => { s with port := s.port.grant r }

/-! ### To rest (log 1, log 24) -/

/-- The first of the block's own steps that can be made, in the model's fixed order (log 24). -/
def State.ownStep (s : State) : Option State :=
  s.tryHead.or (s.tryDivider.or (s.tryHeld.or (s.tryStage.or (s.tryWalk.or (s.tryFree.or (s.tryCompletions.or
    (s.tryDrainEnd.or (s.tryLook.or (s.tryWriter.or (s.tryWant.or s.tryGrant))))))))))

/-- At most `n` own steps, one after another. -/
def State.restFor : Nat → State → State
  | 0, s => s
  | n + 1, s =>
    match s.ownStep with
    | none => s
    | some t => State.restFor n t

/-- The own steps one command carries out at most (log 25). A command frees at most a queue of items, and each of these
is followed by few steps. -/
abbrev restBound : Nat := 64

/-- The block's own steps until none can be made. -/
def State.rest (s : State) : State := State.restFor restBound s

/-- A step of the block's own, commanded by name: made when its conditions hold, and followed to rest. -/
def State.orStay (s : State) (t : Option State) : State :=
  match t with
  | none => s
  | some u => u.rest

/-! ### Transactions that end (R144, R146) -/

/-- A requester that no longer wants an outcome discards it: the end of a discarded read of the builder is reported to
its job's slot, and a look that the engine has left is over (R45, R135). -/
def State.discard (s : State) (r : Requester) : State :=
  match r with
  | .builder => s.mapBuilder fun b => { b with orphan := none }
  | .walker => s.endLookIdle
  | .writer => s

/-- A transaction of a kind ends: its requester acts on the outcome when it wants it, and discards it otherwise, with the
bus data of a discarded one given. With no such transaction in progress nothing happens (log 2, log 32). -/
def State.endTransaction (s : State) (kind : TxKind) (discarded : Transaction → BusOut)
    (act : Transaction → State → State) : State :=
  match s.port.current with
  | none => s
  | some t =>
    if t.kind = kind then
      let free : State := { s with port := { s.port with current := none } }
      if t.wanted then (act t free).rest else ((free.onBus (discarded t)).discard t.requester).rest
    else s

/-- A read of the builder ends: the builder, which stands in FETCHING for it, returns to WALKING and acts on it (R27). -/
def State.endBuilderRead (s : State) (kind : TxKind) (act : State → State) : State :=
  s.endTransaction kind (fun _ => .nothing) fun _ t =>
    if t.builder.reading then act (t.mapBuilder fun b => { b with state := .walking }) else t

end Sys2Proof.Machine
end

