-- ==== Sys2Proof/Machine/Commands.lean ====
section
/-! DEFINITION. The meanings of the commands of the register window and of the RESET input (R157 to R171). -/

namespace Sys2Proof.Machine

/-! ### What the commands do (TABLE 9-4) -/

/-- A refused command changes nothing but REFUSED (R159). -/
def State.refuse (s : State) : State := s.setRefused true

/-- An accepted command clears REFUSED (R159). -/
def State.accept (s : State) : State := s.setRefused false

/-- START (R160). -/
def State.doStart (s : State) : State :=
  match s.ctl.engine with
  | .stopped => ((s.accept.setEngine .running).powerHead.oweLook).rest
  | .draining => ((s.accept.setEngine .running).oweLook).rest
  | .running | .abandoning | .faulted => s.refuse

/-- STOP (R161). -/
def State.doStop (s : State) : State :=
  match s.ctl.engine with
  | .running => ((s.accept.setEngine .draining).ceaseLooking).rest
  | .draining => s.accept
  | .stopped | .abandoning | .faulted => s.refuse

/-- HALT (R163). -/
def State.doHalt (s : State) : State :=
  match s.ctl.engine with
  | .running | .draining => s.accept.enterAbandoning.rest
  | .stopped | .abandoning => s.accept
  | .faulted => s.refuse

/-- SKIP of the counting job, unless there is none or it carries a fault (R164). -/
def State.skipCounting (s : State) : State :=
  match s.countingJob with
  | none => s.refuse
  | some x => if s.faultable x then (s.accept.takeFault x .cancelled 0).rest else s.refuse

/-- SKIP (R164). -/
def State.doSkip (s : State) : State :=
  match s.ctl.engine with
  | .running | .draining => s.skipCounting
  | .stopped | .abandoning | .faulted => s.refuse

/-- LOOK (R165). -/
def State.doLook (s : State) : State :=
  match s.ctl.engine with
  | .running => s.accept.oweLook.rest
  | .stopped | .draining | .abandoning | .faulted => s.refuse

/-- A write to CHAIN (R126). -/
def State.writeChain (s : State) (value : Word) : State :=
  if s.ctl.engine = .stopped ∧ aligned 32 value then s.accept.mapWalker fun w => { w with anchor := value }
  else s.refuse

/-- A write to ATTN clears the flags whose positions hold 1 (R168). -/
def State.writeAttn (s : State) (value : Word) : State :=
  { s with ctl := { s.ctl with attn := s.ctl.attn &&& ~~~(value.setWidth 8) } }

/-- A write to ATTN_EN replaces the eight enables (R169). -/
def State.writeAttnEn (s : State) (value : Word) : State :=
  { s with ctl := { s.ctl with attnEn := value.setWidth 8 } }

/-- A write to CONTROL: the whole value is the command code, and a code of no command is refused (R159). -/
def State.writeControl (s : State) (value : Word) : State :=
  match value.toNat with
  | 1 => s.doStart
  | 2 => s.doStop
  | 3 => s.doHalt
  | 4 => s.doSkip
  | 5 => s.doLook
  | 15 => s.softReset
  | _ => s.refuse

/-- A write of `bytes` bytes at an offset of the window (R158): fewer than 4 bytes, ID, STATUS and offsets without a
register are disregarded. -/
def State.writeRegister (s : State) (offset : Word) (bytes : Nat) (value : Word) : State :=
  if bytes ≠ 4 then s
  else
    match offset.toNat with
    | 0x04 => s.writeControl value
    | 0x0C => s.writeChain value
    | 0x10 => s.writeAttn value
    | 0x14 => s.writeAttnEn value
    | _ => s

/-! ### The meanings -/

/-- START (R160). -/
def execStart (s : State) : Answer := event s State.doStart

/-- STOP (R161). -/
def execStop (s : State) : Answer := event s State.doStop

/-- HALT (R163). -/
def execHalt (s : State) : Answer := event s State.doHalt

/-- SKIP (R164). -/
def execSkip (s : State) : Answer := event s State.doSkip

/-- LOOK (R165). -/
def execLook (s : State) : Answer := event s State.doLook

/-- RESET (R171): accepted in every engine state. -/
def execReset (s : State) : Answer := event s State.softReset

/-- CHAIN_WRITE (R126). -/
def execChainWrite (value : Word) (s : State) : Answer := event s fun t => t.writeChain value

/-- ATTN_WRITE (R168). -/
def execAttnWrite (value : Word) (s : State) : Answer := event s fun t => t.writeAttn value

/-- ATTN_EN_WRITE (R169). -/
def execAttnEnWrite (value : Word) (s : State) : Answer := event s fun t => t.writeAttnEn value

/-- REGISTER_WRITE (R158). -/
def execRegisterWrite (offset : Word) (bytes : Nat) (value : Word) (s : State) : Answer :=
  event s fun t => t.writeRegister offset bytes value

/-- PIN_RESET_ASSERT (R170): with RESET active already, no change of the input. -/
def execPinResetAssert (s : State) : Answer := event s State.pinReset

/-- PIN_RESET_RELEASE (R170): with RESET inactive already, no change of the input. -/
def execPinResetRelease (s : State) : Answer := .next (if s.pins.resetActive then s.quiet.pinRelease else s.quiet)

end Sys2Proof.Machine
end

