-- ==== Sys2Proof/Machine/HeadEvents.lean ====
section
/-! DEFINITION. The meanings of the head events: presence, warm-up, pulses and tickle (chapter 6). -/

namespace Sys2Proof.Machine

/-- The pins with the level of HEAD_PRESENT given. -/
def Pins.withHead (p : Pins) (present : Bool) : Pins := { p with headPresent := present }

/-- The head is WARMING or READY. -/
def HeadState.attached : HeadState → Bool
  | .warming | .ready => true
  | .off | .lost => false

/-- Items that come to the head are taken, one after another, until one stays: at most those of a full queue. -/
def State.takeHeads : Nat → State → State
  | 0, s => s
  | n + 1, s =>
    match s.tryHead with
    | none => s
    | some t => State.takeHeads n t

/-- The shift in flight is aborted, and the firing section is told of a row shift (R116): an END that waits at the head
for it is taken at once, and the items behind it come to the head (R73, R85, log 21). -/
def State.shiftLost (s : State) : State :=
  if s.rowShifting then State.takeHeads Config.queueCapacity s.abortShift else s.abortShift

/-- The head becomes LOST (R109, steps 1 to 3). -/
def State.loseHead (s : State) : State := ((s.shiftLost.stopHeadTimers).setHead .lost).printOut

/-- A loss from READY faults the counting job when the print state was IN or a row shift was in flight (R110). -/
def State.lossFaults (s : State) : Bool :=
  s.head.state == .ready && (s.firing.print == .into || s.rowShifting)

/-- A loss of the head (R109): it has an effect in WARMING and READY. The fault is judged, as step 4, after the abort has
let an END be taken, for the job that is then the counting job (R110, log 21); and before the completion begins of a
counting job that carries a fault and waited for the aborted row, which keeps its first fault (log 36). -/
def State.headLoss (s : State) : State :=
  if s.head.state.attached then
    ((if s.lossFaults then s.loseHead.faultCounting .headLost else s.loseHead).raise .head).rest
  else s

/-- HEAD_PRESENT_INACTIVE (R109). -/
def execHeadPresentInactive (s : State) : Answer :=
  if s.pins.headPresent then pinEvent s (s.pins.withHead false) State.headLoss else event s id

/-- HEAD_PRESENT_ACTIVE (R111): it has an effect in LOST. -/
def execHeadPresentActive (s : State) : Answer :=
  if s.pins.headPresent then event s id
  else pinEvent s (s.pins.withHead true) fun t => if t.head.state = .lost then t.beginWarmup.rest else t

/-- WARMUP_EXPIRY (R108). -/
def execWarmupExpiry (s : State) : Answer :=
  event s fun t => if t.head.state = .warming ∧ t.head.warmupTimer.runs then t.enterReady.rest else t

/-- The counts of a fired row, in the job whose slot it carries (R100, R115). -/
def Counts.fired (c : Counts) (substitutions lostDots : Nat) : Counts :=
  { c with
    rowsFired := satInc c.rowsFired
    substitutions := satAdd c.substitutions substitutions
    lostDots := satAdd c.lostDots lostDots }

/-- The job of a fired row. -/
def Job.fired (j : Job) (substitutions lostDots : Nat) : Job :=
  { j with
    counts := j.counts.fired substitutions lostDots
    account := { j.account with pulsed := j.account.pulsed + 1 } }

/-- The fire pulse of a row shift (R115). -/
def State.fired (s : State) (x : SlotId) (substitutions lostDots : Nat) : State :=
  (((s.mapJob x fun j => j.fired substitutions lostDots).endShift .fire).tickleOff).restartIdle

/-- FIRE_PULSE (R115): the shift timer of a row shift expires. -/
def execFirePulse (s : State) : Answer :=
  event s fun t =>
    match t.head.shift with
    | .row _ x substitutions lostDots => (t.fired x substitutions lostDots).rest
    | .idle | .tickle _ => t

/-- TICKLE_PULSE (R119): the shift timer of a tickle shift expires. -/
def execTicklePulse (s : State) : Answer :=
  event s fun t =>
    match t.head.shift with
    | .tickle _ => t.endShift .tickle
    | .idle | .row .. => t

/-- TICKLE_IDLE_EXPIRY (R117, R118). -/
def execTickleIdleExpiry (s : State) : Answer :=
  event s fun t =>
    if t.head.idleTimer.runs ∧ t.head.state = .ready then
      State.tickleOn { t with head := { t.head with idleTimer := .stopped } }
    else t

/-- PERIOD_TIMER_EXPIRY (R118). -/
def execPeriodTimerExpiry (s : State) : Answer :=
  event s fun t => if t.head.periodTimer.runs ∧ t.head.tickleActive then t.nextPeriod else t

end Sys2Proof.Machine
end

