-- ==== Sys2Proof/Machine/Motion.lean ====
section
/-! DEFINITION. The meanings of the encoder, MARK and still-timer events (chapter 3). -/

namespace Sys2Proof.Machine

/-- The pins with the encoder lines given. -/
def Pins.withEnc (p : Pins) (l : LineState) : Pins := { p with enc := l }

/-- The pins with the level of MARK given. -/
def Pins.withMark (p : Pins) (level : Bool) : Pins := { p with mark := level }

/-- An encoder step, classed by its direction and by DEBT (R50). -/
def State.encoderStepped (s : State) (d : Direction) : State :=
  match d with
  | .reverse =>
    if s.tracker.debt < s.tracker.settings.reverseLimit then s.mapTracker fun t => { t with debt := t.debt + 1 }
    else s.reverseLimitEvent.rest
  | .forward =>
    if 0 < s.tracker.debt then s.mapTracker fun t => { t with debt := t.debt - 1 }
    else s.effectiveStep.rest

/-- ENCODER_STEP (R48, R50): the new line state is kept, and the step is classed. -/
def execEncoderStep (d : Direction) (s : State) : Answer :=
  pinEvent s (s.pins.withEnc (s.pins.enc.step d)) fun t => (t.takeLines t.pins.enc).encoderStepped d

/-- ILLEGAL_TRANSITION (R49): the new line state is kept, no step is counted, and ENCODER_SLIP is set. -/
def execIllegalTransition (s : State) : Answer :=
  pinEvent s (s.pins.withEnc s.pins.enc.flip) fun t => (t.takeLines t.pins.enc).raise .encoderSlip

/-- The level at which MARK is active under the polarity in use (R55). -/
def State.activeLevel (s : State) : Bool := s.tracker.edgeInUse.level

/-- MARK_ACTIVE_EDGE (R55, R56): a change of MARK from inactive to active. With the line active already there is no
edge (log 8). -/
def execMarkActiveEdge (s : State) : Answer :=
  if s.pins.mark = s.activeLevel then event s id
  else pinEvent s (s.pins.withMark s.activeLevel) fun t => t.mapTracker Tracker.activeEdge

/-- MARK_INACTIVE_EDGE (R58, R59): a change of MARK from active to inactive. With the line inactive already there is no
edge (log 8). -/
def execMarkInactiveEdge (s : State) : Answer :=
  if s.pins.mark = s.activeLevel then pinEvent s (s.pins.withMark (!s.activeLevel)) State.inactiveEdge
  else event s id

/-- STILL_TIMER_EXPIRY (R54). -/
def execStillTimerExpiry (s : State) : Answer :=
  event s fun t => if t.tracker.stillTimer.runs then t.stillExpired else t

end Sys2Proof.Machine
end

