-- ==== Sys2Proof/Machine/OwnSteps.lean ====
section
/-! DEFINITION. The meanings of the block's own steps as commands, and of the poll timer: each is made when its
conditions hold (log 1). -/

namespace Sys2Proof.Machine

/-- POLL_TIMER_EXPIRY (R129). A stopped timer does not expire. -/
def execPollTimerExpiry (s : State) : Answer :=
  event s fun t => if t.walker.pollTimer.runs then t.pollExpired.rest else t

/-- DIVIDER_EXPIRY (R76). -/
def execDividerExpiry (s : State) : Answer := event s fun t => t.orStay t.tryDivider

/-- PORT_GRANT (R145). -/
def execPortGrant (s : State) : Answer := event s fun t => t.orStay t.tryGrant

/-- CHAIN_LOOK (R128). -/
def execChainLook (s : State) : Answer := event s fun t => t.orStay t.tryLook

/-- HELD_ITEM_ENTER (R28). -/
def execHeldItemEnter (s : State) : Answer := event s fun t => t.orStay t.tryHeld

/-- STAGE_WAIT_END (R37, R39). -/
def execStageWaitEnd (s : State) : Answer := event s fun t => t.orStay t.tryStage

/-- FREE_START (R75). -/
def execFreeStart (s : State) : Answer := event s fun t => t.orStay t.tryFree

/-- END_TAKEN (R73). -/
def execEndTaken (s : State) : Answer := event s fun t => t.orStay t.tryEnd

/-- COMPLETION_BEGIN (R140). -/
def execCompletionBegin (x : SlotId) (s : State) : Answer := event s fun t => t.orStay (t.tryCompletion x)

/-- DRAIN_END (R162). -/
def execDrainEnd (s : State) : Answer := event s fun t => t.orStay t.tryDrainEnd

end Sys2Proof.Machine
end

