-- ==== Sys2Proof/Machine/PortEvents.lean ====
section
/-! DEFINITION. The meanings of the transactions that end at the memory port (chapters 1, 2, 7). -/

namespace Sys2Proof.Machine

/-! ### Reads of the builder -/

/-- The pins with the level of BATCH given. -/
def Pins.withBatch (p : Pins) (level : Bool) : Pins := { p with batch := level }

/-- ENTRY_READ_DONE (R27): the entry is walked, with BATCH at the level given (R12, log 7). -/
def execEntryReadDone (result : ReadResult) (batch : Bool) (s : State) : Answer :=
  pinEvent s (s.pins.withBatch batch) fun t => t.endBuilderRead .entryRead fun u => u.entryRead result batch

/-- ROW_READ_DONE (R29). -/
def execRowReadDone (result : ReadResult) (s : State) : Answer :=
  event s fun t => t.endBuilderRead .rowRead fun u => u.rowRead result

/-- OVERLAY_READ_DONE (R32). -/
def execOverlayReadDone (result : ReadResult) (s : State) : Answer :=
  event s fun t => t.endBuilderRead .overlayRead fun u => u.overlayRead result

/-- TABLE_READ_DONE (R37, R38). -/
def execTableReadDone (result : ReadResult) (s : State) : Answer :=
  event s fun t => t.endBuilderRead .tableRead fun u => u.tableRead result

/-- SETUP_BLOCK_READ_DONE (R39, R149). -/
def execSetupBlockReadDone (result : ReadResult) (s : State) : Answer :=
  event s fun t => t.endBuilderRead .setupBlockRead fun u => u.setupBlockRead result

/-- MAP_READ_DONE (R40). -/
def execMapReadDone (result : ReadResult) (s : State) : Answer :=
  event s fun t => t.endBuilderRead .mapRead fun u => u.mapRead result

/-! ### Transactions of the walker -/

/-- LINK_READ_DONE (R130). -/
def execLinkReadDone (result : WordResult) (s : State) : Answer :=
  event s fun t => t.endTransaction .linkRead (fun _ => .nothing) fun _ u => u.linkRead result

/-- STATE_READ_DONE (R131). -/
def execStateReadDone (result : WordResult) (s : State) : Answer :=
  event s fun t => t.endTransaction .stateRead (fun _ => .nothing) fun _ u => u.stateRead result

/-- HEADER_READ_DONE (R132). -/
def execHeaderReadDone (result : ReadResult) (s : State) : Answer :=
  event s fun t => t.endTransaction .headerRead (fun _ => .nothing) fun _ u => u.headerRead result

/-- TAKE_EXCHANGE_DONE (R132 to R135). -/
def execTakeExchangeDone (result : WordResult) (s : State) : Answer :=
  event s fun t => t.endTransaction .takeExchange (fun tx => exchangeBus tx.address result) fun tx u =>
    (u.onBus (exchangeBus tx.address result)).exchangeDone result

/-! ### Transactions of the record writer -/

/-- RESULT_WRITE_DONE (R142, R143). -/
def execResultWriteDone (result : WriteResult) (s : State) : Answer :=
  event s fun t => t.endTransaction .resultWrite (fun tx => tx.resultBus result) fun tx u => u.resultWritten tx result

/-- STATE_UPDATE_DONE (R142, R143). What a discarded update wrote depends on a job that is no longer held (log 28). -/
def execStateUpdateDone (result : WordResult) (s : State) : Answer :=
  event s fun t => t.endTransaction .stateUpdate (fun tx => .mayHaveWritten tx.address) fun tx u =>
    u.stateUpdated tx result

/-- RELEASE_DONE (R141, R125, R143). -/
def execReleaseDone (result : WordResult) (s : State) : Answer :=
  event s fun t => t.endTransaction .release (fun tx => releaseBus tx.address result) fun tx u => u.releaseDone tx result

end Sys2Proof.Machine
end

