-- ==== Sys2Proof/Machine/Dispatch.lean ====
section
/-! DEFINITION. The meaning of each command: one arm per row of spec/opcode_table.json. -/

namespace Sys2Proof.Machine

/-- The effect of a command on everything but the queue of waiting commands. -/
def exec (i : Instr) (s : State) : Host.Outcome State Fault Refusal :=
  match i with
  | .start => Sys2Proof.Machine.execStart s
  | .stop => Sys2Proof.Machine.execStop s
  | .halt => Sys2Proof.Machine.execHalt s
  | .skip => Sys2Proof.Machine.execSkip s
  | .look => Sys2Proof.Machine.execLook s
  | .reset => Sys2Proof.Machine.execReset s
  | .chainWrite value => Sys2Proof.Machine.execChainWrite value s
  | .attnWrite value => Sys2Proof.Machine.execAttnWrite value s
  | .attnEnWrite value => Sys2Proof.Machine.execAttnEnWrite value s
  | .registerWrite offset bytes value => Sys2Proof.Machine.execRegisterWrite offset bytes value s
  | .pinResetAssert => Sys2Proof.Machine.execPinResetAssert s
  | .pinResetRelease => Sys2Proof.Machine.execPinResetRelease s
  | .encoderStep direction => Sys2Proof.Machine.execEncoderStep direction s
  | .illegalTransition => Sys2Proof.Machine.execIllegalTransition s
  | .markActiveEdge => Sys2Proof.Machine.execMarkActiveEdge s
  | .markInactiveEdge => Sys2Proof.Machine.execMarkInactiveEdge s
  | .headPresentInactive => Sys2Proof.Machine.execHeadPresentInactive s
  | .headPresentActive => Sys2Proof.Machine.execHeadPresentActive s
  | .stillTimerExpiry => Sys2Proof.Machine.execStillTimerExpiry s
  | .warmupExpiry => Sys2Proof.Machine.execWarmupExpiry s
  | .firePulse => Sys2Proof.Machine.execFirePulse s
  | .ticklePulse => Sys2Proof.Machine.execTicklePulse s
  | .tickleIdleExpiry => Sys2Proof.Machine.execTickleIdleExpiry s
  | .periodTimerExpiry => Sys2Proof.Machine.execPeriodTimerExpiry s
  | .pollTimerExpiry => Sys2Proof.Machine.execPollTimerExpiry s
  | .dividerExpiry => Sys2Proof.Machine.execDividerExpiry s
  | .entryReadDone result batch => Sys2Proof.Machine.execEntryReadDone result batch s
  | .rowReadDone result => Sys2Proof.Machine.execRowReadDone result s
  | .overlayReadDone result => Sys2Proof.Machine.execOverlayReadDone result s
  | .tableReadDone result => Sys2Proof.Machine.execTableReadDone result s
  | .setupBlockReadDone result => Sys2Proof.Machine.execSetupBlockReadDone result s
  | .mapReadDone result => Sys2Proof.Machine.execMapReadDone result s
  | .linkReadDone result => Sys2Proof.Machine.execLinkReadDone result s
  | .stateReadDone result => Sys2Proof.Machine.execStateReadDone result s
  | .headerReadDone result => Sys2Proof.Machine.execHeaderReadDone result s
  | .takeExchangeDone result => Sys2Proof.Machine.execTakeExchangeDone result s
  | .resultWriteDone result => Sys2Proof.Machine.execResultWriteDone result s
  | .stateUpdateDone result => Sys2Proof.Machine.execStateUpdateDone result s
  | .releaseDone result => Sys2Proof.Machine.execReleaseDone result s
  | .portGrant => Sys2Proof.Machine.execPortGrant s
  | .chainLook => Sys2Proof.Machine.execChainLook s
  | .heldItemEnter => Sys2Proof.Machine.execHeldItemEnter s
  | .stageWaitEnd => Sys2Proof.Machine.execStageWaitEnd s
  | .freeStart => Sys2Proof.Machine.execFreeStart s
  | .endTaken => Sys2Proof.Machine.execEndTaken s
  | .completionBegin slot => Sys2Proof.Machine.execCompletionBegin slot s
  | .drainEnd => Sys2Proof.Machine.execDrainEnd s

end Sys2Proof.Machine
end

