-- ==== Sys2Proof/Machine/Step.lean ====
section
/-! DEFINITION. One step of the block: the command at the front of its queue. -/

namespace Sys2Proof.Machine

/-- The command at the front of the queue is taken from it and carried out; with no command waiting the block idles
(log 3). -/
def step (s : State) : Host.Outcome State Fault Refusal :=
  match s.pending with
  | [] => .next s
  | c :: rest => exec c { s with pending := rest }

/-- The command a word spells, put at the front of the queue; no word spells one (log 30). -/
def State.withFetchWord (s : State) (nbits w : Nat) : State :=
  match decodeTableWord nbits w with
  | none => s
  | some c => { s with pending := c :: s.pending }

end Sys2Proof.Machine
end

