-- ==== Sys2Proof/Safety.lean ====
section
/-! DEFINITION. The invariants of the block: bounds, the head and the firing section, and the accounting of rows. -/

namespace Sys2Proof.Machine

/-- Every step keeps a property. -/
def StepKeeps (Inv : State → Prop) : Prop := ∀ s t, Inv s → step s = .next t → Inv t

/-- The engine is STOPPED or FAULTED. -/
def EngineState.resting : EngineState → Bool
  | .stopped | .faulted => true
  | .running | .draining | .abandoning => false

/-! ### Bounds -/

/-- The setup block that is staged (R150). -/
def Staging.params : Staging → Option SetupParams
  | .empty => none
  | .block p => some p
  | .blockAndMap p _ => some p

/-- The bounds the manual gives the block's queues, stacks, counters and parameters. -/
structure State.Bounded (s : State) : Prop where
  /-- "The row queue never holds more than 8 items." (R42) -/
  queue : s.queue.length ≤ Config.queueCapacity
  /-- "The mark queue never holds more than 8 entries." (R62) -/
  marks : s.tracker.marks.length ≤ Config.markCapacity
  /-- "The repeat stack holds at most 4 contexts" (R14) -/
  stack : s.builder.stack.length ≤ Config.stackDepth
  /-- "The reverse debt never exceeds the REVERSE_LIMIT in force." (R50) -/
  debt : s.tracker.debt ≤ s.tracker.settings.reverseLimit
  /-- The trim index runs from 1 to 16 (TABLE 4-2). -/
  trimIndex : 1 ≤ s.firing.trimIndex ∧ s.firing.trimIndex ≤ 16
  /-- PITCH runs from 1 to 4,096 (TABLE 4-2). -/
  pitch : 1 ≤ s.firing.pitch ∧ s.firing.pitch ≤ 4096
  /-- PITCH_TRIM runs from 0 to 15 (TABLE 4-2). -/
  pitchTrim : s.firing.pitchTrim ≤ 15
  /-- The divider counts at most 4,097 effective steps (TABLE 4-2). -/
  divider : ∀ n, s.firing.divider = some n → n ≤ 4097
  /-- The period count is modulo 8 (R118). -/
  period : s.head.periodCount < 8
  /-- Only a setup block whose parameters are all in range is staged (R149, R150). -/
  staged : ∀ p, s.staging.params = some p → p.inRange = true
  /-- A nozzle map is read only for such a block (R39, R40). -/
  judged : ∀ p, s.builder.task = .setupMap p → p.inRange = true

/-! ### The head and the firing section -/

/-- What the print state, the shift and the head's timers say of each other. -/
structure State.HeadConsistent (s : State) : Prop where
  /-- "Whenever the print state is IN, the head is READY." (R70) -/
  printing : s.firing.print = .into → s.head.state = .ready
  /-- The divider runs while the print state is IN and is stopped while it is OUT (R70). -/
  divider : s.firing.divider.isSome = true ↔ s.firing.print = .into
  /-- "none is in flight unless the head is READY" (R113) -/
  shifting : s.head.shift ≠ .idle → s.head.state = .ready
  /-- The shift timer runs while a shift is in flight (R113). -/
  shiftTimer : s.head.shiftTimer = .stopped ↔ s.head.shift = .idle
  /-- Tickle is active only while the head is READY (R117, R118). -/
  tickle : s.head.tickleActive = true → s.head.state = .ready
  /-- The period timer runs while tickle is active (R118). -/
  periodTimer : s.head.periodTimer = .stopped ↔ s.head.tickleActive = false
  /-- "The tickle idle timer runs only while the head is READY" (R117) -/
  idleTimer : s.head.idleTimer ≠ .stopped → s.head.state = .ready
  /-- The warm-up timer runs while the head is WARMING (R108). -/
  warmup : s.head.warmupTimer = .stopped ↔ s.head.state ≠ .warming
  /-- "The head is OFF whenever the engine is STOPPED or FAULTED" (R107) -/
  off : s.ctl.engine.resting = true → s.head.state = .off

/-! ### Held jobs, their items, and the accounting of rows (R42, R47, R138, R157) -/

/-- The job in a slot has not begun completing and carries no fault. -/
def State.working (s : State) (x : SlotId) : Prop :=
  ∃ j, s.job x = some j ∧ j.phase ≠ .completing ∧ j.fault = none

/-- The slot of a completion task. -/
def WriteTask.slot : WriteTask → Option SlotId
  | .completion x _ => some x
  | .release _ => none

/-- The ROW items of a slot in the queue. -/
def State.rowsQueued (s : State) (x : SlotId) : Nat := s.queue.countP (Item.isRowOf x)

/-- 1 when a row shift of the slot's job is in flight. -/
def State.rowsShifting (s : State) (x : SlotId) : Nat := (s.shifting x).toNat

/-- An item stands before no later item of its own slot when it is an END (R42, R73). -/
def Item.before (a b : Item) : Prop := ∀ x, a = .finish x → b.slot ≠ x

/-- The held jobs, and everything that names a slot. -/
structure State.Linked (s : State) : Prop where
  /-- "Every item in the row queue belongs to a held job" (R42), which has no fault and is not COMPLETING (R44, R88). -/
  items : ∀ it ∈ s.queue, s.working it.slot
  /-- An END is the last item of its job (R21, R41, R42). -/
  ends : s.queue.Pairwise Item.before
  /-- The job whose END stands in the queue is no longer building (R138). -/
  ended : ∀ x, Item.finish x ∈ s.queue → s.builder.job ≠ some x
  /-- The building job is held, in phase BUILDING (R2, R138). -/
  building : ∀ x, s.builder.job = some x → s.working x ∧ ∀ j, s.job x = some j → j.phase = .building
  /-- The builder with a building job is busy (TABLE 2-1). -/
  busy : s.builder.job ≠ none → s.builder.state ≠ .free
  /-- A held job in phase BUILDING is the building job (R138). -/
  phase : ∀ x j, s.job x = some j → j.phase = .building → s.builder.job = some x
  /-- The builder with no building job is FREE and holds nothing (R14, R25). -/
  free : s.builder.job = none →
    s.builder.state = .free ∧ s.builder.stack = [] ∧ s.builder.held = none ∧ s.builder.task = .none
  /-- An item is held in WAIT_ROOM alone; it is of the building job, and an END only at the end of the walk (R28). -/
  held : ∀ it, s.builder.held = some it →
    s.builder.state = .waitRoom ∧ s.builder.job = some it.slot ∧ (it = .finish it.slot → s.builder.task = .finish)
  /-- The job whose row is being shifted is held and is not COMPLETING (R115, R140). -/
  shift : ∀ x, s.shifting x = true → ∃ j, s.job x = some j ∧ j.phase ≠ .completing
  /-- The tasks of the write list complete the jobs in phase COMPLETING, each once (R138, R141). -/
  tasks : (s.writer.list.filterMap WriteTask.slot).Nodup ∧
    ∀ x, x ∈ s.writer.list.filterMap WriteTask.slot ↔ ∃ j, s.job x = some j ∧ j.phase = .completing
  /-- The builder is FREE while a look is in progress (R26, R128). -/
  looking : s.walker.stage ≠ .none → s.walker.stage ≠ .discarding → s.builder.job = none
  /-- "For each held job, the ROW items it has emitted number exactly the rows fired, plus the rows discarded by purge
  or shift abort, plus its ROW items in the queue, plus its row in a shift in flight." (R47) -/
  account : ∀ x j, s.job x = some j →
    j.account.emitted = j.account.pulsed + j.account.discarded + s.rowsQueued x + s.rowsShifting x
  /-- "a row fired beyond the largest value of that counter leaves it saturated" (R47) -/
  fired : ∀ x j, s.job x = some j → j.counts.rowsFired.toNat = min j.account.pulsed (2 ^ 32 - 1)
  /-- "Whenever the engine state is STOPPED or FAULTED, the row queue and the mark queue are empty, no job is held, the
  print state is OUT and the head is OFF." (R157); no look is in progress either (R136, R162). -/
  resting : s.ctl.engine.resting = true →
    s.queue = [] ∧ s.tracker.marks = [] ∧ s.slots.slot0 = none ∧ s.slots.slot1 = none ∧ s.firing.print = .out ∧
      s.head.state = .off ∧ s.walker.stage = .none

/-! ### The order of the row queue, and what is there once (R42, R141) -/

/-- The items of the older held job stand first. -/
structure State.OldestFirst (s : State) : Prop where
  /-- "all items of the older held job stand before any item of the newer" (R42) -/
  order : s.queue.Pairwise fun a b => s.slots.oldest = some b.slot → a.slot = b.slot
  /-- The building job is the newer of two (R42, R137). -/
  newest : ∀ x, s.builder.job = some x → s.job (otherSlot x) ≠ none → s.slots.oldest = some (otherSlot x)

/-- SWAP items in the queue. -/
def State.swaps (s : State) : Nat := s.queue.countP Item.isSwap

/-- SETUP items in the queue. -/
def State.setups (s : State) : Nat := s.queue.countP Item.isSetup

/-- A read of a kind whose outcome the builder wants: it is in progress, waits for the port, or is not yet requested. -/
def State.awaits (s : State) (kind : TxKind) : Prop :=
  ∃ t, t.kind = kind ∧ t.wanted = true ∧
    (s.port.current = some t ∨ s.port.builderReq = some t ∨ s.builder.want = some t)

/-- The builder has found no SETUP in the queue and has not yet emitted its own (R39 to R41). -/
def BuildTask.judges : BuildTask → Bool
  | .setupMap _ | .setupItem => true
  | .none | .entry | .extension _ | .closeSlot _ | .image .. | .overlay .. | .blank .. | .hold | .table _ | .finish
  | .setupBlock => false

/-- One SWAP, one SETUP and one read of the builder at a time. -/
structure State.OneAtATime (s : State) : Prop where
  /-- "The row queue never holds more than one SWAP item" (R42) -/
  swaps : s.swaps ≤ 1
  /-- "and never more than one SETUP item" (R42) -/
  setups : s.setups ≤ 1
  /-- "A SWAP waiting in WAIT_ROOM has a loaded standby bank behind it and no SWAP in the queue." (R37) -/
  heldSwap : ∀ x, s.builder.held = some (.swap x) → s.swaps = 0
  /-- A SETUP waits in WAIT_ROOM for the end of the setup build alone (R41). -/
  heldSetup : ∀ x, s.builder.held = some (.setup x) → s.builder.task = .setupItem
  /-- A table is read with no SWAP in the queue (R37). -/
  loading : s.awaits .tableRead → s.swaps = 0
  /-- A setup block is read, and its map, with no SETUP in the queue (R39). -/
  reading : s.awaits .setupBlockRead → s.setups = 0
  judging : s.builder.task.judges = true → s.setups = 0
  /-- The builder waits in FETCHING for a read whose outcome it wants (R27). -/
  fetching : ∀ t, (s.port.current = some t ∨ s.port.builderReq = some t) → t.wanted = true → t.requester = .builder →
    s.builder.state = .fetching ∧ s.builder.want = none
  /-- It stands in FETCHING also for a read that waits for a discarded one to end (R26). -/
  wanting : ∀ t, s.builder.want = some t → s.builder.state = .fetching ∧ t.requester = .builder
  /-- At most one read of the builder is outstanding (R26). -/
  one : s.port.builderReq ≠ none → s.port.currentOf .builder = false
  /-- A request that waits is of the block that made it (R144). -/
  requests : ∀ r t, s.port.waiting r = some t → t.requester = r

/-- Releases in the write list. -/
def State.releases (s : State) : Nat := s.writer.list.countP fun t => t.slot.isNone

/-- A look that has not yet handed over a release (R130 to R132). -/
def LookStage.holdsNone : LookStage → Bool
  | .link | .state _ | .header _ | .exchange .. => true
  | .none | .releaseWait | .discarding => false

/-- One release at a time. -/
structure State.OneRelease (s : State) : Prop where
  /-- "the walker hands over no second release while one waits or is in progress" (R141) -/
  releases : s.releases ≤ 1
  /-- A look goes on with no release waiting or in progress (R128, R134). -/
  looking : s.walker.stage.holdsNone = true → s.releases = 0

/-- The three together. -/
structure State.Ordered (s : State) : Prop where
  first : s.OldestFirst
  once : s.OneAtATime
  release : s.OneRelease

/-! ### What the block's own steps leave alone (log 1) -/

/-- The block has no step of its own to make. -/
def State.AtRest (s : State) : Prop := s.ownStep = none

/-- What a held job keeps through the block's own steps: what its header gave it, a fault it carries, and every counter
but the two of lost triggers. -/
structure Job.Carried (j j' : Job) : Prop where
  record : j'.record = j.record
  kind : j'.kind = j.kind
  entries : j'.entries = j.entries
  notify : j'.notify = j.notify
  strict : j'.strict = j.strict
  fault : ∀ f, j.fault = some f → j'.fault = some f
  counts : { j'.counts with underruns := 0#16, overspeeds := 0#16 } = { j.counts with underruns := 0#16, overspeeds := 0#16 }

/-- What the block keeps through its own steps. -/
structure State.Kept (s t : State) : Prop where
  pins : t.pins = s.pins
  pending : t.pending = s.pending
  refused : t.ctl.refused = s.ctl.refused
  attnEn : t.ctl.attnEn = s.ctl.attnEn
  chainCause : t.ctl.chainCause = s.ctl.chainCause
  /-- No flag is cleared. -/
  attn : t.ctl.attn &&& s.ctl.attn = s.ctl.attn
  anchor : t.walker.anchor = s.walker.anchor
  bankA : t.mapper.bankA = s.mapper.bankA
  bankB : t.mapper.bankB = s.mapper.bankB
  fire : t.outs.fire = s.outs.fire
  bus : t.outs.bus = s.outs.bus
  line : t.tracker.line = s.tracker.line
  epos : t.tracker.epos = s.tracker.epos
  web : t.tracker.web = s.tracker.web
  stillTimer : t.tracker.stillTimer = s.tracker.stillTimer
  qualifier : t.tracker.qualifier = s.tracker.qualifier
  /-- No job is taken and none is freed. -/
  jobs : ∀ x, (s.job x = none → t.job x = none) ∧ ∀ j, s.job x = some j → ∃ j', t.job x = some j' ∧ j.Carried j'

/-- The engine state, the flags, the head and the marks, which the end of a drain alone changes among the own steps. -/
structure State.Unstopped (s t : State) : Prop where
  ctl : t.ctl = s.ctl
  head : t.head.state = s.head.state
  warmupTimer : t.head.warmupTimer = s.head.warmupTimer
  marks : t.tracker.marks = s.tracker.marks
  previous : t.tracker.previous = s.tracker.previous

/-- The end of a drain is not at hand: the engine is neither DRAINING nor ABANDONING, or a job is held (R162). -/
def State.NotEnding (s : State) : Prop :=
  (s.ctl.engine ≠ .draining ∧ s.ctl.engine ≠ .abandoning) ∨ ∃ x, s.job x ≠ none

/-! ### Words the statements share -/

/-- Only REFUSED and the lines at rest: what a command that changes nothing else leaves (R159). -/
def State.withRefused (s : State) (refused : Bool) : State :=
  { s with ctl := { s.ctl with refused := refused }, outs := Outputs.none }

/-- The transaction in progress is of a kind, its requester wants its outcome, and the RESET input is inactive. -/
def State.ends (s : State) (kind : TxKind) : Prop :=
  s.pins.resetActive = false ∧ ∃ t, s.port.current = some t ∧ t.kind = kind ∧ t.wanted = true

/-- The block right after its transaction has ended: the port is free and the lines are at rest. -/
def State.portFreed (s : State) : State :=
  { s with port := { s.port with current := none }, outs := Outputs.none }

/-- A read that the builder in FETCHING waits for is about to end (R27). -/
def State.readEnds (s : State) (kind : TxKind) : Prop :=
  s.ends kind ∧ s.builder.state = .fetching ∧ s.builder.want = none

/-- The block right after a read of the builder has ended: the port is free and the builder WALKING (R27). -/
def State.readDone (s : State) : State :=
  { s.portFreed with builder := { s.builder with state := .walking } }

/-- The same, with the level of BATCH given (R12). -/
def State.entryDone (s : State) (batch : Bool) : State :=
  { s.readDone with pins := { s.pins with batch := batch } }

/-- The builder WALKING with a task at an index. -/
def State.walking (s : State) (task : BuildTask) (index : Nat) : State :=
  { s with builder := { s.builder with state := .walking, task := task, index := index } }

/-- The builder has asked for a read: it stands in FETCHING, and its request waits for the port, or with the builder
while a discarded read of it is outstanding (R26, R27). -/
def State.readAsked (s : State) (kind : TxKind) (address : Word) (words : Nat) : State :=
  if s.port.outstanding .builder then
    { s with builder := { s.builder with state := .fetching, want := some ⟨kind, address, words, 0#32, true⟩ } }
  else
    { s with
      builder := { s.builder with state := .fetching, want := none }
      port := { s.port with builderReq := some ⟨kind, address, words, 0#32, true⟩ } }

end Sys2Proof.Machine
end

