-- ==== Sys2Proof/Certificates/Slice0/Obligations.lean ====
section
/-! DEFINITION. The statements about the block, from the numbered rules of spec/. A statement ends a command either in
an exact next state, or in `State.rest` of one: the effect of the command, followed by the block's own steps (log 1),
of which `Obligations.OwnStepsKeep` says what they leave alone. -/

open Sys2Proof Sys2Proof.Machine

/-! ### The machine -/

/-- A step carries out the command at the front of the queue on the state with the queue's rest; with no command waiting
the block idles (log 3). -/
def Obligations.StepRunsFrontCommand : Prop :=
  (∀ (c : Instr) (rest : List Instr) (s : State),
    step { s with pending := c :: rest } = exec c { s with pending := rest }) ∧
  ∀ s : State, s.pending = [] → step s = .next s

/-- Every command, in every state, is answered with a next state that holds the same waiting commands. -/
def Obligations.EveryCommandAnswers : Prop :=
  ∀ (c : Instr) (s : State), ∃ t, exec c s = .next t ∧ t.pending = s.pending

/-- What the block's own steps leave alone; the engine, the flags, the head and the marks too, unless the end of a drain
is at hand (log 1). -/
def Obligations.OwnStepsKeep : Prop :=
  (∀ s : State, s.Kept s.rest) ∧ ∀ s : State, s.NotEnding → s.Unstopped s.rest

/-! ### Resets (R170, R171) -/

/-- The values the manual gives for reset, in every block. -/
def Obligations.ResetState : Prop :=
  State.reset.ctl = ⟨.stopped, false, 0#8, 0#8, .none⟩ ∧
  State.reset.walker = ⟨.idle, false, .stopped, 1000, 0#32, .none⟩ ∧
  State.reset.writer.list = [] ∧ State.reset.port = ⟨none, none, none, none, false⟩ ∧
  State.reset.slots.slot0 = none ∧ State.reset.slots.slot1 = none ∧
  State.reset.builder = ⟨.free, none, 0, [], .none, none, none, none⟩ ∧
  State.reset.queue = [] ∧ State.reset.staging = .empty ∧
  State.reset.tracker.epos = 0#32 ∧ State.reset.tracker.debt = 0 ∧ State.reset.tracker.web = .still ∧
  State.reset.tracker.stillTimer = .stopped ∧ State.reset.tracker.qualifier = .waiting ∧
  State.reset.tracker.previous = none ∧ State.reset.tracker.marks = [] ∧
  State.reset.tracker.settings = ⟨⟨.activeHigh, 4, 0, 16, 0#32⟩, 1024, 200⟩ ∧
  State.reset.firing = ⟨.out, none, 1, 8, 0⟩ ∧
  State.reset.mapper.active = .a ∧ State.reset.mapper.levelMask = 15#4 ∧
  State.reset.mapper.map = List.replicate 640 .good ∧
  State.reset.mapper.bankA.length = 20 ∧ State.reset.mapper.bankB = State.reset.mapper.bankA ∧
  (∀ level < 16, (tableEntry State.reset.mapper.bankA level).good =
    if level = 0 then 0#2 else if level ≤ 5 then 1#2 else if level ≤ 10 then 2#2 else 3#2) ∧
  (∀ k < 4, (tableEntry State.reset.mapper.bankA (16 + k)).good = BitVec.ofNat 2 k) ∧
  (∀ k < 20, (tableEntry State.reset.mapper.bankA k).weak =
    if (tableEntry State.reset.mapper.bankA k).good = 3#2 then 3#2
    else (tableEntry State.reset.mapper.bankA k).good + 1#2) ∧
  State.reset.head = ⟨.off, .stopped, .idle, .stopped, .stopped, false, .stopped, 0,
    ⟨500, 2, 0, 1000, 4, 0xFFFF#16⟩, 0#4⟩ ∧
  State.reset.status = 0#32

/-- Pin reset and soft reset, from every state: the reset values, with the line levels then present; the soft reset
keeps the anchor and the enables. The soft reset pulses HL_CLR once whatever the head state, and once more for a shift
it ends; the RESET input holds it asserted. The single write of a result word in progress is made, the write of a locked
transaction may have been, and of a read, or of a request that waits, nothing is written. While the RESET input is
active no event is taken and no register written: pins alone follow their lines, each command moving the pins it names
and no other, and the release takes the encoder levels as the line state. -/
def Obligations.Resets : Prop :=
  (∀ s : State, s.pins.resetActive = false →
    exec .pinResetAssert s = .next { State.reset with
      tracker := { State.reset.tracker with line := s.pins.enc }
      pins := { s.pins with resetActive := true }
      outs := ⟨none, 0, s.port.busAtReset⟩
      free := s.free
      pending := s.pending } ∧
    exec .reset s = .next { State.reset with
      ctl := { State.reset.ctl with attnEn := s.ctl.attnEn }
      walker := { State.reset.walker with anchor := s.walker.anchor }
      tracker := { State.reset.tracker with line := s.pins.enc }
      pins := s.pins
      outs := ⟨none, (if s.head.shift = .idle then 0 else 1) + 1, s.port.busAtReset⟩
      free := s.free
      pending := s.pending }) ∧
  (∀ p : Port, (p.current = none → p.busAtReset = .nothing) ∧ ∀ t, p.current = some t →
    (t.kind = .resultWrite → p.busAtReset = .wrote t.address t.value) ∧
    (t.kind = .takeExchange ∨ t.kind = .stateUpdate ∨ t.kind = .release →
      p.busAtReset = .mayHaveWritten t.address) ∧
    (t.kind ∉ [TxKind.resultWrite, .takeExchange, .stateUpdate, .release] → p.busAtReset = .nothing)) ∧
  ((∀ s : State, s.pins.resetActive = true →
    s.clrLevel = true ∧
    (∀ c : Instr, c ≠ .pinResetRelease →
      exec c s = .next { s with
        pins := match c with
          | .encoderStep .forward => { s.pins with enc := s.pins.enc.forward }
          | .encoderStep .reverse => { s.pins with enc := s.pins.enc.reverse }
          | .illegalTransition => { s.pins with enc := s.pins.enc.flip }
          | .markActiveEdge => { s.pins with mark := s.tracker.edgeInUse.level }
          | .markInactiveEdge => { s.pins with mark := !s.tracker.edgeInUse.level }
          | .headPresentActive => { s.pins with headPresent := true }
          | .headPresentInactive => { s.pins with headPresent := false }
          | .entryReadDone _ batch => { s.pins with batch := batch }
          | _ => s.pins
        outs := Outputs.none }) ∧
    exec .pinResetRelease s = .next { s with
      pins := { s.pins with resetActive := false }
      tracker := { s.tracker with line := s.pins.enc }
      outs := Outputs.none }) ∧
  ∀ s : State, s.pins.resetActive = false → exec .pinResetRelease s = .next { s with outs := Outputs.none })


/-! ### Engine control (chapter 9) -/

/-- START from STOPPED powers the head and judges HEAD_PRESENT, and the first look begins at once; START from DRAINING
owes a look and changes nothing else. -/
def Obligations.StartEntersRunning : Prop :=
  (∀ s : State, s.pins.resetActive = false → s.ctl.engine = .stopped →
    ∃ t, exec .start s = .next t ∧ t.ctl.engine = .running ∧ t.ctl.refused = false ∧
      t.walker.anchor = s.walker.anchor ∧
      (s.pins.headPresent = false → t.head.state = .lost ∧ t.ctl.attn = s.ctl.attn ||| 0x08#8) ∧
      (s.pins.headPresent = true → s.head.settings.warmupTime ≠ 0 →
        t.head.state = .warming ∧ t.head.warmupTimer = .running s.head.settings.warmupTime ∧
          t.ctl.attn = s.ctl.attn) ∧
      (s.pins.headPresent = true → s.head.settings.warmupTime = 0 →
        t.head.state = .ready ∧ t.ctl.attn = s.ctl.attn ||| 0x08#8) ∧
      (s.Linked → s.walker.state ≠ .looking → s.writer.list = [] →
        t.walker.state = .looking ∧ t.walker.stage = .link ∧ t.walker.lookOwed = false)) ∧
  ∀ s : State, s.pins.resetActive = false → s.ctl.engine = .draining →
    exec .start s = .next (State.rest { s.withRefused false with
      ctl := { s.ctl with engine := .running, refused := false }
      walker := { s.walker with lookOwed := true } })

/-- STOP in RUNNING drains: look owed is cleared, the poll timer stopped, and the look in progress ended as its stage
asks; with nothing left to drain the engine is STOPPED at once. -/
def Obligations.StopDrains : Prop :=
  ∀ s : State, s.pins.resetActive = false → s.ctl.engine = .running →
    (s.walker.stage = .none → exec .stop s = .next (State.rest { s.withRefused false with
      ctl := { s.ctl with engine := .draining, refused := false }
      walker := { s.walker with state := .idle, lookOwed := false, pollTimer := .stopped } })) ∧
    (s.walker.stage = .releaseWait → exec .stop s = .next (State.rest { s.withRefused false with
      ctl := { s.ctl with engine := .draining, refused := false }
      walker := { s.walker with state := .idle, stage := .none, lookOwed := false, pollTimer := .stopped } })) ∧
    (∀ linked header, s.walker.stage = .exchange linked header →
      exec .stop s = .next (State.rest { s.withRefused false with
        ctl := { s.ctl with engine := .draining, refused := false }
        walker := { s.walker with lookOwed := false, pollTimer := .stopped } })) ∧
    (s.walker.stage.reads = true → exec .stop s = .next (State.rest { s.withRefused false with
      ctl := { s.ctl with engine := .draining, refused := false }
      port := s.port.disown .walker
      walker := { s.walker with stage := .discarding, lookOwed := false, pollTimer := .stopped } })) ∧
    (s.Linked → s.slots.slot0 = none → s.slots.slot1 = none → s.walker.stage = .none → s.writer.list = [] →
      s.port.outstanding .walker = false →
      ∃ t, exec .stop s = .next t ∧ t.ctl.engine = .stopped ∧ t.ctl.attn = s.ctl.attn ||| 0x20#8)

/-- HALT in RUNNING or DRAINING: the shift is aborted, tickle and its timer stopped, the print state OUT, the queue
empty, the walker ceases to look, and every held job without a fault that has not begun completing takes HALTED. -/
def Obligations.HaltAbandons : Prop :=
  ∀ s : State, s.pins.resetActive = false → s.ctl.engine = .running ∨ s.ctl.engine = .draining → s.Linked →
    ∃ t, exec .halt s = .next t ∧ (t.ctl.engine = .abandoning ∨ t.ctl.engine = .stopped) ∧ t.ctl.refused = false ∧
      t.queue = [] ∧ t.builder.job = none ∧ t.firing.print = .out ∧ t.head.shift = .idle ∧
      t.head.tickleActive = false ∧ t.head.idleTimer = .stopped ∧ t.head.periodTimer = .stopped ∧
      t.walker.lookOwed = false ∧ t.walker.pollTimer = .stopped ∧ t.outs.fire = none ∧
      t.outs.clr = (if s.head.shift = .idle then 0 else 1) + (if t.ctl.engine = .stopped then 1 else 0) ∧
      (t.ctl.engine = .abandoning → t.head.state = s.head.state ∧ t.head.warmupTimer = s.head.warmupTimer) ∧
      ∀ x, (s.job x = none → t.job x = none) ∧ ∀ j, s.job x = some j →
        ∃ j', t.job x = some j' ∧ j'.record = j.record ∧ j'.counts = j.counts ∧
          j'.fault = if j.fault = none ∧ j.phase ≠ .completing then some (.halted, 0) else j.fault

/-- SKIP in RUNNING or DRAINING gives the counting job CANCELLED when it carries no fault. -/
def Obligations.SkipCancels : Prop :=
  ∀ (s : State) (x : SlotId) (j : Job), s.pins.resetActive = false →
    s.ctl.engine = .running ∨ s.ctl.engine = .draining → s.countingJob = some x → s.job x = some j → j.fault = none →
      exec .skip s = .next (State.rest ((s.withRefused false).takeFault x .cancelled 0))

/-- LOOK in RUNNING owes a look; in every other engine state it is refused and owes none. -/
def Obligations.LookOwesALook : Prop :=
  ∀ s : State, s.pins.resetActive = false →
    (s.ctl.engine = .running → exec .look s = .next (State.rest { s.withRefused false with
      walker := { s.walker with lookOwed := true } })) ∧
    (s.ctl.engine ≠ .running → exec .look s = .next (s.withRefused true))

/-- The commands that are refused, which change REFUSED alone, and those accepted with no change, which clear it
(TABLE 9-4, R126, R164); and an accepted write to CHAIN. -/
def Obligations.CommandsRefused : Prop :=
  ∀ s : State, s.pins.resetActive = false →
    (s.ctl.engine ≠ .stopped → s.ctl.engine ≠ .draining → exec .start s = .next (s.withRefused true)) ∧
    (s.ctl.engine ≠ .running → s.ctl.engine ≠ .draining → exec .stop s = .next (s.withRefused true)) ∧
    (s.ctl.engine = .draining → exec .stop s = .next (s.withRefused false)) ∧
    (s.ctl.engine = .faulted → exec .halt s = .next (s.withRefused true)) ∧
    (s.ctl.engine = .stopped ∨ s.ctl.engine = .abandoning → exec .halt s = .next (s.withRefused false)) ∧
    (s.ctl.engine ≠ .running → s.ctl.engine ≠ .draining → exec .skip s = .next (s.withRefused true)) ∧
    (s.countingJob = none → exec .skip s = .next (s.withRefused true)) ∧
    (∀ x j, s.countingJob = some x → s.job x = some j → j.fault ≠ none → exec .skip s = .next (s.withRefused true)) ∧
    (∀ value : Word, s.ctl.engine ≠ .stopped ∨ value.toNat % 32 ≠ 0 →
      exec (.chainWrite value) s = .next (s.withRefused true)) ∧
    (∀ value : Word, s.ctl.engine = .stopped → value.toNat % 32 = 0 →
      exec (.chainWrite value) s = .next { s.withRefused false with walker := { s.walker with anchor := value } })

/-- A write to ATTN clears the flags whose positions hold 1, and changes nothing else. -/
def Obligations.AttnWriteClears : Prop :=
  ∀ (s : State) (value : Word), s.pins.resetActive = false →
    ∃ attn : BitVec 8,
      exec (.attnWrite value) s = .next { s with ctl := { s.ctl with attn := attn }, outs := Outputs.none } ∧
      ∀ i < 8, attn.getLsbD i = (s.ctl.attn.getLsbD i && !value.getLsbD i)

/-- A write to ATTN_EN replaces the eight enables; the ATTN line is active exactly while a flag is set with its enable
set; a soft reset keeps the enables and leaves the line inactive, and a pin reset clears them. -/
def Obligations.AttnEnableWrite : Prop :=
  (∀ (s : State) (value : Word), s.pins.resetActive = false →
    exec (.attnEnWrite value) s =
      .next { s with ctl := { s.ctl with attnEn := value.extractLsb' 0 8 }, outs := Outputs.none }) ∧
  (∀ s : State, s.attnLine = true ↔ ∃ i < 8, s.ctl.attn.getLsbD i = true ∧ s.ctl.attnEn.getLsbD i = true) ∧
  (∀ s : State, s.readRegister 0x14 = 0#24 ++ s.ctl.attnEn) ∧
  ∀ s : State, s.pins.resetActive = false →
    (∃ t, exec .reset s = .next t ∧ t.ctl.attnEn = s.ctl.attnEn ∧ t.attnLine = false) ∧
    ∃ t, exec .pinResetAssert s = .next t ∧ t.ctl.attnEn = 0#8 ∧ t.attnLine = false

/-- The register window: what a write of 4 bytes at each offset is, writes that are disregarded, and what reads return,
whole or a byte. -/
def Obligations.RegisterWindow : Prop :=
  (∀ (s : State) (value : Word),
    exec (.registerWrite 0x04#32 4 value) s =
      (if value = 1#32 then exec .start s
      else if value = 2#32 then exec .stop s
      else if value = 3#32 then exec .halt s
      else if value = 4#32 then exec .skip s
      else if value = 5#32 then exec .look s
      else if value = 15#32 then exec .reset s
      else if s.pins.resetActive then .next { s with outs := Outputs.none } else .next (s.withRefused true)) ∧
    exec (.registerWrite 0x0C#32 4 value) s = exec (.chainWrite value) s ∧
    exec (.registerWrite 0x10#32 4 value) s = exec (.attnWrite value) s ∧
    exec (.registerWrite 0x14#32 4 value) s = exec (.attnEnWrite value) s) ∧
  (∀ (s : State) (offset value : Word) (bytes : Nat),
    bytes ≠ 4 ∨ (offset ≠ 0x04#32 ∧ offset ≠ 0x0C#32 ∧ offset ≠ 0x10#32 ∧ offset ≠ 0x14#32) →
      exec (.registerWrite offset bytes value) s = .next { s with outs := Outputs.none }) ∧
  ∀ s : State, s.readRegister 0x00 = 0x06402C01#32 ∧ s.readRegister 0x04 = 0#32 ∧ s.readRegister 0x08 = s.status ∧
    s.readRegister 0x0C = s.walker.anchor ∧ s.readRegister 0x10 = 0#24 ++ s.ctl.attn ∧
    s.readRegister 0x14 = 0#24 ++ s.ctl.attnEn ∧ (∀ offset, 0x14 < offset → s.readRegister offset = 0#32) ∧
    ∀ offset k, offset % 4 = 0 → k < 4 → s.readByte (offset + k) = (s.readRegister offset).extractLsb' (8 * k) 8

/-- The fields of STATUS in the encodings of TABLE 10-7, with the depths inside their bounds. -/
def Obligations.StatusFields : Prop :=
  ∀ s : State, s.Bounded →
    (s.status.extractLsb' 0 3 = match s.ctl.engine with
      | .stopped => 0#3 | .running => 1#3 | .draining => 2#3 | .abandoning => 3#3 | .faulted => 4#3) ∧
    (s.status.extractLsb' 3 2 = match s.head.state with
      | .off => 0#2 | .warming => 1#2 | .ready => 2#2 | .lost => 3#2) ∧
    (s.status.getLsbD 5 = true ↔ s.tracker.web = .moving) ∧ (s.status.getLsbD 6 = true ↔ s.firing.print = .into) ∧
    s.status.getLsbD 7 = s.ctl.refused ∧
    (s.status.extractLsb' 8 2 = match s.head.shift with
      | .idle => 0#2 | .row .. => 1#2 | .tickle _ => 2#2) ∧
    (s.status.extractLsb' 10 3 = match s.ctl.chainCause with
      | .none => 0#3 | .linkMisaligned => 1#3 | .readBus => 2#3 | .staleState => 3#3 | .writeBus => 4#3) ∧
    s.status.extractLsb' 13 3 = 0#3 ∧
    (s.status.extractLsb' 16 4).toNat = s.queue.length ∧ (s.status.extractLsb' 20 4).toNat = s.tracker.marks.length ∧
    (s.status.extractLsb' 24 2).toNat =
      (if s.slots.slot0 = none then 0 else 1) + (if s.slots.slot1 = none then 0 else 1) ∧
    s.status.extractLsb' 26 2 = 0#2 ∧
    (s.status.extractLsb' 28 3).toNat = s.builder.stack.length ∧ s.status.getLsbD 31 = false

/-! ### The position tracker (chapter 3) -/

/-- The four line states in the order of TABLE 3-2; a reverse step below the limit adds to DEBT, a forward step with
DEBT repays it, and an illegal transition sets ENCODER_SLIP: each changes nothing else. A reverse step that finds DEBT
at the limit flushes the mark queue and clears DEBT, and faults the counting job when registration was in progress. -/
def Obligations.EncoderStepsClassed : Prop :=
  (LineState.forward ⟨false, false⟩ = ⟨true, false⟩ ∧ LineState.forward ⟨true, false⟩ = ⟨true, true⟩ ∧
    LineState.forward ⟨true, true⟩ = ⟨false, true⟩ ∧ LineState.forward ⟨false, true⟩ = ⟨false, false⟩ ∧
    ∀ l : LineState, l.forward.reverse = l ∧ l.reverse.forward = l ∧ l.flip = l.forward.forward) ∧
  ∀ s : State, s.pins.resetActive = false →
    (s.tracker.debt < s.tracker.settings.reverseLimit →
      exec (.encoderStep .reverse) s = .next { s with
        pins := { s.pins with enc := s.pins.enc.reverse }
        tracker := { s.tracker with line := s.pins.enc.reverse, debt := s.tracker.debt + 1 }
        outs := Outputs.none }) ∧
    (0 < s.tracker.debt →
      exec (.encoderStep .forward) s = .next { s with
        pins := { s.pins with enc := s.pins.enc.forward }
        tracker := { s.tracker with line := s.pins.enc.forward, debt := s.tracker.debt - 1 }
        outs := Outputs.none }) ∧
    (exec .illegalTransition s = .next { s with
        pins := { s.pins with enc := s.pins.enc.flip }
        tracker := { s.tracker with line := s.pins.enc.flip }
        ctl := { s.ctl with attn := s.ctl.attn ||| 0x40#8 }
        outs := Outputs.none }) ∧
    (s.tracker.settings.reverseLimit ≤ s.tracker.debt →
      let flushed : State := { s with
        pins := { s.pins with enc := s.pins.enc.reverse }
        tracker := { s.tracker with line := s.pins.enc.reverse, debt := 0, marks := [] }
        outs := Outputs.none }
      (s.firing.print = .out → s.tracker.marks = [] →
        exec (.encoderStep .reverse) s = .next flushed.rest) ∧
      (s.firing.print = .into ∨ s.tracker.marks ≠ [] → s.countingJob = none →
        exec (.encoderStep .reverse) s = .next flushed.rest) ∧
      ∀ x, s.firing.print = .into ∨ s.tracker.marks ≠ [] → s.countingJob = some x →
        exec (.encoderStep .reverse) s = .next (State.rest (flushed.takeFault x .reverseLimit 0)))

/-- An effective step: EPOS advances by 1 modulo 2^32, the still timer restarts, and a web found STILL becomes MOVING
with WEB attention. The expiry of the still timer makes the web STILL with WEB attention, and the timer then stands
stopped; a timer that is stopped does not expire. A position is reached when EPOS minus it, signed, is 0 or more. With
the print state IN the step decrements the divider counter by 1, after a product start that comes with it has been
judged missed; at 0, with a ROW or nothing at the head, or an END that waits for its row, the block's next own step is
the divider's expiry. With the print state OUT and no product start accepted, the step leaves the counter alone. -/
def Obligations.WebFollowsEffectiveSteps : Prop :=
  (∀ s : State, s.pins.resetActive = false → s.tracker.debt = 0 →
    (∀ n, s.firing.print = .into → s.firing.divider = some (n + 1) →
      ∃ u, exec (.encoderStep .forward) s = .next (State.rest u) ∧
        u.firing = { s.firing with divider := some n } ∧ u.queue = s.queue ∧ u.head = s.head ∧
        u.mapper = s.mapper ∧
        (∀ x j position rest, s.countingJob = some x → s.job x = some j → s.tracker.marks = position :: rest →
          reached (s.tracker.epos + 1#32) position = true →
            ∃ j', u.job x = some j' ∧ j'.counts.productsMissed = satInc j.counts.productsMissed) ∧
        (n = 0 → s.queue = [] ∨ (∃ x row items, s.queue = .row x row :: items) ∨
            (∃ x items, s.queue = .finish x :: items ∧ s.shifting x = true) →
          ∃ v, u.ownStep = some v ∧ exec .dividerExpiry u = .next (State.rest v))) ∧
    (s.firing.print = .out →
      s.tracker.marks = [] ∨
        (∃ position rest, s.tracker.marks = position :: rest ∧
          reached (s.tracker.epos + 1#32) position = false) ∨
        s.countingJob = none ∨ (∀ y items, s.queue ≠ .hold y :: items) ∨ s.head.state ≠ .ready →
      ∃ u, exec (.encoderStep .forward) s = .next (State.rest u) ∧ u.firing = s.firing ∧ u.queue = s.queue ∧
        u.head = s.head)) ∧
  ((∀ s : State, s.pins.resetActive = false → s.tracker.debt = 0 →
    ∃ t, exec (.encoderStep .forward) s = .next t ∧
      t.pins = { s.pins with enc := s.pins.enc.forward } ∧ t.tracker.line = s.pins.enc.forward ∧
      t.tracker.epos = s.tracker.epos + 1#32 ∧ t.tracker.web = .moving ∧
      t.tracker.stillTimer = .running s.tracker.settings.stillTime ∧
      (s.tracker.web = .still → t.ctl.attn.getLsbD 4 = true) ∧
      (s.tracker.web = .moving → s.NotEnding → t.ctl = s.ctl)) ∧
  ∀ epos position : Word, reached epos position = true ↔ (epos - position).toNat < 2 ^ 31) ∧
  (∀ s : State, s.pins.resetActive = false →
    (s.tracker.stillTimer ≠ .stopped → exec .stillTimerExpiry s = .next { s with
      tracker := { s.tracker with web := .still, stillTimer := .stopped }
      ctl := { s.ctl with attn := s.ctl.attn ||| 0x10#8 }
      outs := Outputs.none }) ∧
    (s.tracker.stillTimer = .stopped → exec .stillTimerExpiry s = .next { s with outs := Outputs.none }))

/-- The width of a measurement at an effective step: counted up to 65,535, and rejected as long when it already equals a
MARK_MAX other than 0, which is counted in the counting job. -/
def Obligations.MeasuredWidth : Prop :=
  ∀ s : State, s.pins.resetActive = false → s.tracker.debt = 0 →
    ∃ t, exec (.encoderStep .forward) s = .next t ∧
      (s.tracker.qualifier = .waiting → t.tracker.qualifier = .waiting) ∧
      (∀ edge, s.tracker.qualifier = .jammed edge → t.tracker.qualifier = .jammed edge) ∧
      ∀ leading width captured, s.tracker.qualifier = .measuring leading width captured →
        (captured.max ≠ 0 ∧ width = captured.max →
          t.tracker.qualifier = .jammed captured.edge ∧
          ∀ x j, s.countingJob = some x → s.job x = some j →
            ∃ j', t.job x = some j' ∧ j'.counts.marksLong = satInc j.counts.marksLong) ∧
        (¬(captured.max ≠ 0 ∧ width = captured.max) →
          t.tracker.qualifier = .measuring leading (min (width + 1) 65535) captured ∧
          ∀ x j, s.job x = some j → ∃ j', t.job x = some j' ∧ j'.counts.marksLong = j.counts.marksLong)

/-- The due check and the disposition of its product start (TABLE 4-5): ignored with no counting job, missed with the
print state IN, with no HOLD at the head, or with the head not READY, and accepted otherwise. -/
def Obligations.ProductStartsJudged : Prop :=
  ∀ s : State, s.pins.resetActive = false → s.tracker.debt = 0 →
    ∃ t, exec (.encoderStep .forward) s = .next t ∧
      (s.NotEnding → t.tracker.marks =
        match s.tracker.marks with
        | [] => []
        | position :: rest => if reached (s.tracker.epos + 1#32) position then rest else position :: rest) ∧
      ∀ x j, s.job x = some j → ∃ j', t.job x = some j' ∧
        ((s.tracker.marks = [] ∨
            ∃ position rest, s.tracker.marks = position :: rest ∧
              reached (s.tracker.epos + 1#32) position = false) →
          j'.counts.productsMissed = j.counts.productsMissed ∧
          j'.counts.productsStarted = j.counts.productsStarted) ∧
        (s.countingJob ≠ some x →
          j'.counts.productsMissed = j.counts.productsMissed ∧
          j'.counts.productsStarted = j.counts.productsStarted) ∧
        ∀ position rest, s.tracker.marks = position :: rest → reached (s.tracker.epos + 1#32) position = true →
          s.countingJob = some x →
          ((s.firing.print = .into ∨ (∀ y items, s.queue ≠ .hold y :: items) ∨ s.head.state ≠ .ready) →
            j'.counts.productsMissed = satInc j.counts.productsMissed ∧
            j'.counts.productsStarted = j.counts.productsStarted) ∧
          (∀ y items, s.firing.print = .out → s.queue = .hold y :: items → s.head.state = .ready →
            j'.counts.productsMissed = j.counts.productsMissed ∧
            j'.counts.productsStarted = satInc j.counts.productsStarted)

/-- An active edge in WAITING begins a measurement with the settings in force; in the other states it changes the
level of the line alone, and with the line active already there is no edge (log 8). An inactive edge in WAITING judges
nothing and in JAMMED ends the jam. In MEASURING it judges the mark (R59), in this order: short, close, not accepted
in STOPPED and FAULTED, dropped with MARK_LOST when the queue holds 8, accepted otherwise. The polarity in use is the
one in force in WAITING and the one captured at the leading edge in MEASURING and JAMMED; MARK is active high under
ACTIVE_HIGH and low under ACTIVE_LOW. -/
def Obligations.MarkEdges : Prop :=
  (∀ t : Tracker, (t.qualifier = .waiting → t.edgeInUse = t.settings.mark.edge) ∧
    (∀ leading width captured, t.qualifier = .measuring leading width captured → t.edgeInUse = captured.edge) ∧
    ∀ edge, t.qualifier = .jammed edge → t.edgeInUse = edge) ∧
  (MarkEdge.level .activeHigh = true ∧ MarkEdge.level .activeLow = false) ∧
  (∀ s : State, s.pins.resetActive = false →
    (s.pins.mark = s.tracker.edgeInUse.level →
      exec .markActiveEdge s = .next { s with outs := Outputs.none } ∧
      (s.tracker.qualifier = .waiting → exec .markInactiveEdge s = .next { s with
        pins := { s.pins with mark := !s.tracker.edgeInUse.level }, outs := Outputs.none }) ∧
      (∀ edge, s.tracker.qualifier = .jammed edge → exec .markInactiveEdge s = .next { s with
        pins := { s.pins with mark := !s.tracker.edgeInUse.level }
        tracker := { s.tracker with qualifier := .waiting }
        outs := Outputs.none })) ∧
    (s.pins.mark ≠ s.tracker.edgeInUse.level →
      exec .markInactiveEdge s = .next { s with outs := Outputs.none } ∧
      (s.tracker.qualifier = .waiting → exec .markActiveEdge s = .next { s with
        pins := { s.pins with mark := s.tracker.edgeInUse.level }
        tracker := { s.tracker with qualifier := .measuring s.tracker.epos 0 s.tracker.settings.mark }
        outs := Outputs.none }) ∧
      (s.tracker.qualifier ≠ .waiting → exec .markActiveEdge s = .next { s with
        pins := { s.pins with mark := s.tracker.edgeInUse.level }, outs := Outputs.none }))) ∧
  (∀ (s : State) (leading : Word) (width : Nat) (captured : MarkSettings),
    s.pins.resetActive = false → s.tracker.qualifier = .measuring leading width captured →
    s.pins.mark = captured.edge.level →
      let ended : State := { s with
        pins := { s.pins with mark := !captured.edge.level }
        tracker := { s.tracker with qualifier := .waiting }
        outs := Outputs.none }
      (width < captured.min →
        exec .markInactiveEdge s =
          .next (ended.countIn fun c => { c with marksShort := satInc c.marksShort })) ∧
      (captured.min ≤ width →
        (∀ previous, s.tracker.previous = some previous → (leading - previous).toNat < captured.gap →
          exec .markInactiveEdge s =
            .next (ended.countIn fun c => { c with marksClose := satInc c.marksClose })) ∧
        ((∀ previous, s.tracker.previous = some previous → captured.gap ≤ (leading - previous).toNat) →
          (s.ctl.engine = .stopped ∨ s.ctl.engine = .faulted → exec .markInactiveEdge s = .next ended) ∧
          (s.ctl.engine ≠ .stopped → s.ctl.engine ≠ .faulted →
            (8 ≤ s.tracker.marks.length →
              exec .markInactiveEdge s =
                .next { ended.countIn fun c => { c with marksDropped := satInc c.marksDropped } with
                  ctl := { s.ctl with attn := s.ctl.attn ||| 0x80#8 } }) ∧
            (s.tracker.marks.length < 8 →
              exec .markInactiveEdge s = .next { ended with
                tracker := { s.tracker with
                  qualifier := .waiting
                  marks := s.tracker.marks ++ [leading + captured.delay]
                  previous := some leading } }))))
)


/-! ### The firing section (chapter 4) -/

/-- A trigger that takes a row: the ROW leaves the queue; its shift begins with the codes of the bank, mask and map
then active and the duration of the LINK_RATE in force, in place of a tickle shift, which is aborted; tickle becomes
inactive; the trim index advances and the divider is reloaded with the interval of the new index. An accepted product
start takes the HOLD away, and at the same step triggers the row behind it as row 1 of the cycle: the interval of row
2 follows. -/
def Obligations.RowTriggersTakeRows : Prop :=
  (∀ (s : State) (x : SlotId) (row : Row) (items : List Item),
    s.pins.resetActive = false → s.firing.print = .into → s.firing.divider = some 0 → s.rowShifting = false →
    s.queue = .row x row :: items →
      let index := nextTrim s.firing.trimIndex
      exec .dividerExpiry s = .next (State.rest { s with
        queue := items
        head := { s.head with
          shift := .row (s.mapper.mapRow row).codes x (s.mapper.mapRow row).substitutions
            (s.mapper.mapRow row).lostDots
          shiftTimer := .running (10 * 2 ^ s.head.settings.linkRate)
          dat := s.datLevel
          tickleActive := false
          periodTimer := .stopped
          periodCount := 0 }
        firing := { s.firing with
          trimIndex := index
          divider := some (s.firing.pitch + (lengthened s.firing.pitchTrim index).toNat) }
        free := if s.head.shift = .idle then s.free else s.free + 1
        outs := ⟨none, if s.head.shift = .idle then 0 else 1, .nothing⟩ }) ∧
      (s.job x ≠ none → ∃ t, exec .dividerExpiry s = .next t ∧
        t.head.shift = .row (s.mapper.mapRow row).codes x (s.mapper.mapRow row).substitutions
          (s.mapper.mapRow row).lostDots ∧
        t.head.shiftTimer = .running (10 * 2 ^ s.head.settings.linkRate) ∧ t.head.tickleActive = false ∧
        t.head.periodTimer = .stopped ∧ t.head.periodCount = 0 ∧ t.outs.fire = none)) ∧
  (∀ (s : State) (position : Word) (rest : List Word) (x y z : SlotId) (row : Row) (items : List Item),
    s.pins.resetActive = false → s.tracker.debt = 0 → s.tracker.marks = position :: rest →
    reached (s.tracker.epos + 1#32) position = true → s.countingJob = some x → s.firing.print = .out →
    s.head.state = .ready → s.queue = .hold y :: .row z row :: items → s.rowShifting = false →
      let shift : Shift := .row (s.mapper.mapRow row).codes z (s.mapper.mapRow row).substitutions
        (s.mapper.mapRow row).lostDots
      (∃ started triggered, exec (.encoderStep .forward) s = .next (State.rest started) ∧
        started.queue = .row z row :: items ∧ started.head = s.head ∧
        started.firing = { s.firing with print := .into, divider := some 0, trimIndex := 1 } ∧
        started.ownStep = some triggered ∧
        triggered.queue = items ∧ triggered.head.shift = shift ∧
        triggered.firing = { s.firing with
          print := .into
          trimIndex := 2
          divider := some (s.firing.pitch + (lengthened s.firing.pitchTrim 2).toNat) }) ∧
      ∃ t, exec (.encoderStep .forward) s = .next t ∧ t.head.shift = shift ∧
        t.head.shiftTimer = .running (10 * 2 ^ s.head.settings.linkRate) ∧ t.head.tickleActive = false ∧
        t.head.periodTimer = .stopped ∧ t.head.periodCount = 0 ∧ t.outs.fire = none)

/-- A trigger that is lost: an overspeed while a row shift is in flight, an underrun with the queue empty while the
builder has a print job; each is counted in the counting job, faults one that is STRICT, and the divider is reloaded
while the print state stays IN. With the queue empty and no print job building, the print state becomes OUT. The
builder has a print job when its building job is held with KIND PRINT. -/
def Obligations.TriggersLost : Prop :=
  (∀ s : State, s.buildingPrint = true ↔ ∃ x j, s.builder.job = some x ∧ s.job x = some j ∧ j.kind = 1#2) ∧
  ∀ s : State, s.pins.resetActive = false → s.firing.print = .into → s.firing.divider = some 0 →
    let quiet : State := { s with outs := Outputs.none }
    let reloaded : Firing := { s.firing with
      trimIndex := nextTrim s.firing.trimIndex
      divider := some (s.firing.pitch + (lengthened s.firing.pitchTrim (nextTrim s.firing.trimIndex)).toNat) }
    (s.rowShifting = true →
      let counted := quiet.countIn fun c => { c with overspeeds := satInc c.overspeeds }
      (s.countingJob = none → exec .dividerExpiry s = .next (State.rest { quiet with firing := reloaded })) ∧
      ∀ x j, s.countingJob = some x → s.job x = some j →
        (j.strict = false ∨ j.fault ≠ none →
          exec .dividerExpiry s = .next (State.rest { counted with firing := reloaded })) ∧
        (j.strict = true → j.fault = none →
          exec .dividerExpiry s = .next (State.rest (counted.takeFault x .overspeed 0)))) ∧
    (s.rowShifting = false → s.queue = [] → s.buildingPrint = true →
      let counted := quiet.countIn fun c => { c with underruns := satInc c.underruns }
      (s.countingJob = none → exec .dividerExpiry s = .next (State.rest { quiet with firing := reloaded })) ∧
      ∀ x j, s.countingJob = some x → s.job x = some j →
        (j.strict = false ∨ j.fault ≠ none →
          exec .dividerExpiry s = .next (State.rest { counted with firing := reloaded })) ∧
        (j.strict = true → j.fault = none →
          exec .dividerExpiry s = .next (State.rest (counted.takeFault x .underrun 0)))) ∧
    (s.rowShifting = false → s.queue = [] → s.buildingPrint = false →
      exec .dividerExpiry s =
        .next (State.rest { quiet with firing := { s.firing with print := .out, divider := none } }))

/-- Over every 16 rows of the trim cycle exactly PITCH_TRIM are lengthened, and they take 16 × PITCH + PITCH_TRIM
effective steps; row 1 is never lengthened, and the trim index goes from 16 to 1. -/
def Obligations.TrimCycle : Prop :=
  (∀ trim ≤ 15, ((List.range 16).filter fun k => lengthened trim (k + 1)).length = trim ∧
    lengthened trim 1 = false) ∧
  (∀ f : Firing, f.pitchTrim ≤ 15 →
    ((List.range 16).map fun k => f.interval (k + 1)).sum = 16 * f.pitch + f.pitchTrim) ∧
  (∀ k, 1 ≤ k → k ≤ 16 → nextTrim k = if k = 16 then 1 else k + 1) ∧
  ∀ trim k : Nat, lengthened trim k = true ↔ (k - 1) * trim / 16 < k * trim / 16

/-- FREE_START: a ROW at the head, print state OUT, head READY and no row shift give print state IN, trim index 1 and a
counter of 1; without the four nothing happens. -/
def Obligations.FreeStart : Prop :=
  ∀ s : State, s.pins.resetActive = false →
    (∀ x row items, s.queue = .row x row :: items → s.firing.print = .out → s.head.state = .ready →
      s.rowShifting = false →
        exec .freeStart s = .next (State.rest { s with
          firing := { s.firing with print := .into, divider := some 1, trimIndex := 1 }
          outs := Outputs.none })) ∧
    ((∀ x row items, s.queue ≠ .row x row :: items) ∨ s.firing.print = .into ∨ s.head.state ≠ .ready ∨
      s.rowShifting = true → exec .freeStart s = .next { s with outs := Outputs.none })

/-- What the firing section does at once with an item that comes to the head: a SWAP exchanges the banks, a SETUP is
applied, a HOLD makes the print state OUT and stays, an END whose job has no row shifting begins its completion. -/
def Obligations.HeadItemsTaken : Prop :=
  ∀ (s : State) (x : SlotId) (items : List Item),
    (s.queue = .swap x :: items → s.ownStep = some { s with
      queue := items
      mapper := { s.mapper with active := if s.mapper.active = .a then .b else .a } }) ∧
    (s.queue = .setup x :: items → s.ownStep = some (State.applyStaged { s with queue := items })) ∧
    (s.queue = .hold x :: items → s.firing.print = .into → s.ownStep = some { s with
      firing := { s.firing with print := .out, divider := none } }) ∧
    (s.queue = .finish x :: items → s.shifting x = false → s.ownStep = some (State.addTask
      { s.mapJob x fun j => { j with phase := .completing } with queue := items }
      (.completion x s.tracker.epos)))

/-- A SETUP applied: every owner takes its values, print state OUT, DEBT cut to a new limit below it, tickle inactive
and the idle timer restarted when the head is READY; marks, measurements, timers that run, shifts, banks and the trim
index are kept, and the staging area is empty. -/
def Obligations.SetupApplied : Prop :=
  ∀ (s : State) (p : SetupParams) (map : Option (List NozzleState)),
    s.staging = (match map with | none => .block p | some m => .blockAndMap p m) →
      s.applyStaged = { s with
        staging := .empty
        firing := { s.firing with print := .out, divider := none, pitch := p.pitch, pitchTrim := p.pitchTrim }
        mapper := { s.mapper with levelMask := BitVec.ofNat 4 p.levelMask, map := map.getD s.mapper.map }
        tracker := { s.tracker with
          debt := if p.reverseLimit < s.tracker.debt then p.reverseLimit else s.tracker.debt
          settings := ⟨⟨if p.markEdge = 0 then .activeHigh else .activeLow, p.markMin, p.markMax, p.markGap,
            p.printDelay⟩, p.reverseLimit, p.stillTime⟩ }
        walker := { s.walker with pollInterval := p.pollInterval }
        head :=
          if s.head.state = .ready then { s.head with
            settings := ⟨p.warmupTime, p.linkRate, p.tickleIdle, p.ticklePeriod, p.tickleCadence, p.tickleGroups⟩
            tickleActive := false
            periodTimer := .stopped
            periodCount := 0
            idleTimer := if p.tickleIdle = 0 then .stopped else .running p.tickleIdle }
          else { s.head with
            settings := ⟨p.warmupTime, p.linkRate, p.tickleIdle, p.ticklePeriod, p.tickleCadence,
              p.tickleGroups⟩ } }

/-! ### The head link (chapter 6) -/

/-- A loss of the head from WARMING or READY: LOST, the shift aborted with one pulse on HL_CLR, the timers stopped,
print state OUT, HEAD attention; from READY with the print state IN or a row shift in flight, the counting job takes
HEAD_LOST. An END that waits at the head for the aborted row is taken at the abort: its job completes, its row
discarded, and HEAD_LOST goes to the other held job, which is then the counting job (log 21). In OFF and LOST the
level of the line alone changes. -/
def Obligations.HeadLoss : Prop :=
  ∀ s : State, s.pins.resetActive = false →
    (s.pins.headPresent = false → exec .headPresentInactive s = .next { s with outs := Outputs.none }) ∧
    (s.pins.headPresent = true → s.head.state = .off ∨ s.head.state = .lost →
      exec .headPresentInactive s = .next { s with
        pins := { s.pins with headPresent := false }, outs := Outputs.none }) ∧
    (s.pins.headPresent = true → s.head.state = .warming ∨ s.head.state = .ready →
      ∃ u, exec .headPresentInactive s = .next (State.rest u) ∧ u.pins = { s.pins with headPresent := false } ∧
        u.head.state = .lost ∧ u.head.shift = .idle ∧ u.head.shiftTimer = (if s.head.shift = .idle
          then s.head.shiftTimer else .stopped) ∧
        u.head.warmupTimer = .stopped ∧ u.head.idleTimer = .stopped ∧ u.head.periodTimer = .stopped ∧
        u.head.tickleActive = false ∧ u.head.periodCount = 0 ∧ u.firing.print = .out ∧ u.firing.divider = none ∧
        u.firing.trimIndex = s.firing.trimIndex ∧ u.ctl = { s.ctl with attn := s.ctl.attn ||| 0x08#8 } ∧
        u.outs = ⟨none, if s.head.shift = .idle then 0 else 1, .nothing⟩ ∧
        -- no item is taken at the abort
        (s.rowShifting = false ∨ s.queue = [] ∨ (∃ x row items, s.queue = .row x row :: items) ∨
            (∃ x items, s.queue = .hold x :: items) →
          u.head.settings = s.head.settings ∧ u.tracker = s.tracker ∧ u.mapper = s.mapper ∧
          (¬(s.head.state = .ready ∧ (s.firing.print = .into ∨ s.rowShifting = true)) →
            u.queue = s.queue ∧ u.builder = s.builder ∧ u.writer = s.writer ∧
            (s.rowShifting = false → u.slots = s.slots)) ∧
          (s.head.state = .ready ∧ (s.firing.print = .into ∨ s.rowShifting = true) →
            (s.countingJob = none → u.queue = s.queue ∧ u.builder = s.builder) ∧
            ∀ x j, s.countingJob = some x → s.job x = some j → ∃ j', u.job x = some j' ∧
              j'.fault = (if j.fault = none then some (.headLost, 0) else j.fault) ∧
              j'.account.discarded = j.account.discarded + s.rowsShifting x +
                (if j.fault = none then s.rowsQueued x else 0) ∧
              (j.fault = none → ∀ item ∈ u.queue, item.slot ≠ x))) ∧
        -- an END at the head waits for the row that is aborted
        (∀ x j items, s.head.state = .ready → s.queue = .finish x :: items → s.shifting x = true →
          s.job x = some j → (items = [] ∨ (∃ y row rest, items = .row y row :: rest) ∨
            (∃ y rest, items = .hold y :: rest)) →
          u.job x = some { j with
            phase := .completing
            account := { j.account with discarded := j.account.discarded + 1 } } ∧
          u.writer.list = s.writer.list ++ [.completion x s.tracker.epos] ∧
          (s.job (otherSlot x) = none → u.queue = items ∧ u.builder = s.builder) ∧
          ∀ k, s.job (otherSlot x) = some k → k.phase ≠ .completing → k.fault = none →
            (∃ k', u.job (otherSlot x) = some k' ∧ k'.fault = some (.headLost, 0)) ∧
            ∀ item ∈ u.queue, item ∈ items ∧ item.slot ≠ otherSlot x))

/-- The head returns in LOST: WARMING with the full WARMUP_TIME, or READY at once when it is 0; the warm-up's expiry
makes it READY. READY sets HEAD attention and starts the idle timer, unless the engine is ABANDONING. HPWR is high in
WARMING, READY and LOST, and low in OFF. -/
def Obligations.HeadReturnsAndWarms : Prop :=
  (∀ s : State, (s.head.state = .warming ∨ s.head.state = .ready ∨ s.head.state = .lost → s.hpwr = true) ∧
    (s.head.state = .off → s.hpwr = false)) ∧
  ∀ s : State, s.pins.resetActive = false →
    let ready : HeadLink := { s.head with
      state := .ready
      warmupTimer := .stopped
      idleTimer :=
        if s.ctl.engine = .abandoning then s.head.idleTimer
        else if s.head.settings.tickleIdle = 0 then .stopped else .running s.head.settings.tickleIdle }
    (s.pins.headPresent = false → s.head.state = .lost →
      (s.head.settings.warmupTime ≠ 0 → exec .headPresentActive s = .next (State.rest { s with
        pins := { s.pins with headPresent := true }
        head := { s.head with state := .warming, warmupTimer := .running s.head.settings.warmupTime }
        outs := Outputs.none })) ∧
      (s.head.settings.warmupTime = 0 → exec .headPresentActive s = .next (State.rest { s with
        pins := { s.pins with headPresent := true }
        head := ready
        ctl := { s.ctl with attn := s.ctl.attn ||| 0x08#8 }
        outs := Outputs.none }))) ∧
    (s.pins.headPresent = false → s.head.state ≠ .lost → exec .headPresentActive s = .next { s with
      pins := { s.pins with headPresent := true }, outs := Outputs.none }) ∧
    (s.pins.headPresent = true → exec .headPresentActive s = .next { s with outs := Outputs.none }) ∧
    (s.head.state = .warming → s.head.warmupTimer ≠ .stopped → exec .warmupExpiry s = .next (State.rest { s with
      head := ready
      ctl := { s.ctl with attn := s.ctl.attn ||| 0x08#8 }
      outs := Outputs.none })) ∧
    (s.head.state ≠ .warming ∨ s.head.warmupTimer = .stopped →
      exec .warmupExpiry s = .next { s with outs := Outputs.none })

/-- The fire pulse that ends a row shift: one on HL_FIRE, counted with its substitutions and lost dots in the row's own
job, tickle inactive, the idle timer restarted. Without a row shift in flight there is none. A sum of dots is cut at
the largest value of its counter. -/
def Obligations.FirePulse : Prop :=
  (∀ (x : Word) (n : Nat), (satAdd x n).toNat = min (x.toNat + n) 4294967295) ∧
  ∀ s : State, s.pins.resetActive = false →
    (∀ codes x substitutions lostDots, s.head.shift = .row codes x substitutions lostDots →
      exec .firePulse s = .next (State.rest { s.mapJob x (fun j => { j with
          counts := { j.counts with
            rowsFired := satInc j.counts.rowsFired
            substitutions := satAdd j.counts.substitutions substitutions
            lostDots := satAdd j.counts.lostDots lostDots }
          account := { j.account with pulsed := j.account.pulsed + 1 } }) with
        head := { s.head with
          shift := .idle
          shiftTimer := .stopped
          dat := s.head.shift.lineData.getLastD s.head.dat
          tickleActive := false
          periodTimer := .stopped
          periodCount := 0
          idleTimer := if s.head.settings.tickleIdle = 0 then .stopped else .running s.head.settings.tickleIdle }
        outs := ⟨some .fire, 0, .nothing⟩ })) ∧
    (s.rowShifting = false → exec .firePulse s = .next { s with outs := Outputs.none })

/-- The idle timer's expiry makes tickle active with period 0, and each expiry of the period timer begins the next
period, modulo 8; in a tickle period with the link IDLE and a pattern that names a nozzle, a tickle shift begins. Its
pulse counts nothing and restarts no timer. -/
def Obligations.Tickle : Prop :=
  ∀ s : State, s.pins.resetActive = false →
    let pattern := s.mapper.ticklePattern s.head.settings.tickleGroups
    let begun (head : HeadLink) : HeadLink :=
      if head.periodCount % s.head.settings.tickleCadence = 0 ∧ s.head.shift = .idle ∧ true ∈ pattern then
        { head with shift := .tickle pattern, shiftTimer := .running (10 * 2 ^ s.head.settings.linkRate) }
      else head
    (s.head.idleTimer ≠ .stopped → s.head.state = .ready →
      exec .tickleIdleExpiry s = .next { s with
        head := begun { s.head with
          idleTimer := .stopped
          tickleActive := true
          periodCount := 0
          periodTimer := .running s.head.settings.ticklePeriod }
        outs := Outputs.none }) ∧
    (s.head.idleTimer = .stopped ∨ s.head.state ≠ .ready →
      exec .tickleIdleExpiry s = .next { s with outs := Outputs.none }) ∧
    (s.head.periodTimer ≠ .stopped → s.head.tickleActive = true →
      exec .periodTimerExpiry s = .next { s with
        head := begun { s.head with
          periodCount := (s.head.periodCount + 1) % 8
          periodTimer := .running s.head.settings.ticklePeriod }
        outs := Outputs.none }) ∧
    (s.head.periodTimer = .stopped ∨ s.head.tickleActive = false →
      exec .periodTimerExpiry s = .next { s with outs := Outputs.none }) ∧
    (∀ shifted, s.head.shift = .tickle shifted → exec .ticklePulse s = .next { s with
      head := { s.head with
        shift := .idle
        shiftTimer := .stopped
        dat := s.head.shift.lineData.getLastD s.head.dat }
      outs := ⟨some .tickle, 0, .nothing⟩ }) ∧
    ((∀ shifted, s.head.shift ≠ .tickle shifted) → exec .ticklePulse s = .next { s with outs := Outputs.none }) ∧
    ∀ (n : Nat) (state : NozzleState), s.mapper.map[n]? = some state →
      pattern[n]? = some (s.head.settings.tickleGroups.getLsbD (n / 40) && state != .out)

/-- The data lines over a shift: the kind at clock 0, and at clock c the even and the odd nozzle of the pair c − 1.
Between shifts HL_CLK and HL_FIRE stand low and the data lines hold their last values. -/
def Obligations.LineData : Prop :=
  (∀ codes x substitutions lostDots, codes.length = 640 →
    (Shift.row codes x substitutions lostDots).lineData.length = 321 ∧
    (Shift.row codes x substitutions lostDots).lineData[0]? = some 0x1#4 ∧
    ∀ c even odd, 1 ≤ c → c ≤ 320 → codes[2 * (c - 1)]? = some even → codes[2 * (c - 1) + 1]? = some odd →
      (Shift.row codes x substitutions lostDots).lineData[c]? = some (odd ++ even)) ∧
  (∀ pattern : List Bool, pattern.length = 640 →
    (Shift.tickle pattern).lineData.length = 321 ∧ (Shift.tickle pattern).lineData[0]? = some 0x2#4 ∧
    ∀ c even odd, 1 ≤ c → c ≤ 320 → pattern[2 * (c - 1)]? = some even → pattern[2 * (c - 1) + 1]? = some odd →
      (Shift.tickle pattern).lineData[c]? = some ((0#1 ++ BitVec.ofBool odd) ++ (0#1 ++ BitVec.ofBool even))) ∧
  ∀ s : State, s.head.shift = .idle → s.clkLevel = false ∧ s.fireLevel = false ∧ s.datLevel = s.head.dat

/-! ### The drop mapper (chapter 5) -/

/-- A blank row has code 0 at every nozzle, whatever the banks, the mask and the map hold, and counts nothing. -/
def Obligations.BlankRowFiresNothing : Prop :=
  ∀ (m : Mapper) (row : Row), row.blank = true → m.mapRow row = ⟨List.replicate 640 0#2, 0, 0⟩

/-- The entry a nozzle selects and its primary code: overlay entry, opaque overlay entry 0 or the image entry of the
masked level; the GOOD code, the WEAK code, or none at an OUT nozzle. The active bank is bank A or bank B, as the
choice says, and entry k of a bank is its entry k. -/
def Obligations.PrimaryCodes : Prop :=
  (∀ m : Mapper, (m.active = .a → m.activeBank = m.bankA) ∧ (m.active = .b → m.activeBank = m.bankB)) ∧
  (∀ (bank : List DropEntry) (k : Nat) (e : DropEntry), bank[k]? = some e → tableEntry bank k = e) ∧
  (∀ (m : Mapper) (d : Dot),
    (d.overlay ≠ 0#2 → m.entryFor d = tableEntry m.activeBank (16 + d.overlay.toNat)) ∧
    (d.overlay = 0#2 → d.covered = true → m.entryFor d = tableEntry m.activeBank 16) ∧
    (d.overlay = 0#2 → d.covered = false → m.entryFor d = tableEntry m.activeBank (d.level &&& m.levelMask).toNat)) ∧
  ∀ (m : Mapper) (dots : List Dot) (n : Nat) (state : NozzleState) (d : Dot),
    m.map[n]? = some state → dots[n]? = some d →
      (m.primaryCodes dots)[n]? = some
        (match state with
        | .good => (m.entryFor d).good
        | .weak => (m.entryFor d).weak
        | .out => 0#2)

/-- The substitution pass: one OUT nozzle gives its wanted code to its left neighbour, else to its right one, else
loses the dot; over the row every OUT nozzle keeps code 0, a WEAK nozzle its own, and each dot that is wanted is
substituted or lost. The pass begins with the primary codes and takes the OUT nozzles in ascending order, each on what
the ones before it have left. -/
def Obligations.SubstitutionPass : Prop :=
  (∀ (m : Mapper) (row : Row), row.blank = false →
    m.mapRow row = (m.wantedDots row.dots).foldl (placeDot m.map) ⟨m.primaryCodes row.dots, 0, 0⟩) ∧
  (∀ (map : List NozzleState) (r : RowCodes) (n : Nat) (code : BitVec 2),
    let left := n ≠ 0 ∧ map[n - 1]? = some .good ∧ r.codes[n - 1]? = some 0#2
    let right := map[n + 1]? = some .good ∧ r.codes[n + 1]? = some 0#2
    (left → placeDot map r (n, code) = ⟨r.codes.set (n - 1) code, r.substitutions + 1, r.lostDots⟩) ∧
    (¬left → right → placeDot map r (n, code) = ⟨r.codes.set (n + 1) code, r.substitutions + 1, r.lostDots⟩) ∧
    (¬left → ¬right → placeDot map r (n, code) = ⟨r.codes, r.substitutions, r.lostDots + 1⟩)) ∧
  (∀ (m : Mapper) (row : Row), row.blank = false →
    (m.mapRow row).codes.length = min m.map.length row.dots.length ∧
    (m.mapRow row).substitutions + (m.mapRow row).lostDots = (m.wantedDots row.dots).length ∧
    ∀ (n : Nat) (state : NozzleState) (d : Dot), m.map[n]? = some state → row.dots[n]? = some d →
      (state = .out → (m.mapRow row).codes[n]? = some 0#2) ∧
      (state = .weak → (m.mapRow row).codes[n]? = some (m.entryFor d).weak) ∧
      (state = .good → (m.entryFor d).good ≠ 0#2 → (m.mapRow row).codes[n]? = some (m.entryFor d).good)) ∧
  ∀ (m : Mapper) (dots : List Dot), (m.wantedDots dots).Pairwise (fun a b => a.1 < b.1) ∧
    ∀ n code, (n, code) ∈ m.wantedDots dots ↔
      ∃ d, m.map[n]? = some .out ∧ dots[n]? = some d ∧ code = (m.entryFor d).good ∧ code ≠ 0#2

/-! ### The builder (chapters 1 and 2) -/

/-- Bit `b` of the string a pixel stands in is bit `b mod 32` of word `b / 32` of the read, the lowest the least
significant. A pixel value has DEPTH bits and no more. -/
def Obligations.PixelBits : Prop :=
  (∀ (words : List Word) (firstBit depth i : Nat), pixelAt (rowString words) firstBit depth i < 2 ^ depth) ∧
  ∀ (words : List Word) (firstBit depth i bit : Nat), bit < depth →
    (pixelAt (rowString words) firstBit depth i).testBit bit =
      (wordAt words ((firstBit + i * depth + bit) / 32)).getLsbD ((firstBit + i * depth + bit) % 32)

/-- The builder's walk. An item emitted: with fewer than 8 items in the queue it takes the tail, sets EMITTED in every
context, and the builder goes on to the next row or entry, from a SETUP to the END, and from the END to FREE;
otherwise the builder holds it in WAIT_ROOM. A builder in WALKING, with no item to take at the head and no trigger
due, requests the read of its entry, of the extension's or the CLOSE's slot, of its table or setup block when no SWAP
or SETUP stands in the queue (in WAIT_STAGE until then), or of its nozzle map; it emits a blank row, a HOLD, a SETUP
or the END; and past the last entry the walk ends, with REPEAT_UNMATCHED at OPEN of the top context when a repeat is
open. -/
def Obligations.ItemEmitted : Prop :=
  (∀ (s : State) (item : Item),
    let goes (task : BuildTask) (index : Nat) : Builder := { s.builder with
      state := .walking
      task := task
      index := index
      stack := s.builder.stack.map fun c => { c with emitted := true }
      held := none }
    let i := s.builder.index
    (s.queue.length < 8 → (s.emit item).queue = s.queue ++ [item] ∧
      (∀ row, item = .row item.slot row → ∀ j, s.job item.slot = some j →
        ∃ j', (s.emit item).job item.slot = some j' ∧ j'.account.emitted = j.account.emitted + 1) ∧
      (∀ f o row, s.builder.task = .image f o row →
        (row + 1 < f.count → (s.emit item).builder = goes (.image f o (row + 1)) i) ∧
        (f.count ≤ row + 1 → (s.emit item).builder = goes .entry (if o = none then i + 1 else i + 2))) ∧
      (∀ f o row dots, s.builder.task = .overlay f o row dots →
        (row + 1 < f.count → (s.emit item).builder = goes (.image f (some o) (row + 1)) i) ∧
        (f.count ≤ row + 1 → (s.emit item).builder = goes .entry (i + 2))) ∧
      (∀ row count, s.builder.task = .blank row count →
        (row + 1 < count → (s.emit item).builder = goes (.blank (row + 1) count) i) ∧
        (count ≤ row + 1 → (s.emit item).builder = goes .entry (i + 1))) ∧
      (s.builder.task = .hold → (s.emit item).builder = goes .entry (i + 1)) ∧
      (∀ src, s.builder.task = .table src → (s.emit item).builder = goes .entry (i + 1)) ∧
      (s.builder.task = .setupItem → (s.emit item).builder = goes .finish i) ∧
      (∀ x, s.builder.task = .finish → s.builder.job = some x →
        (s.emit item).builder = ⟨.free, none, 0, [], .none, none, none, s.builder.orphan⟩ ∧
        (s.emit item).walker.lookOwed = true ∧
        ∀ j, s.job x = some j → ∃ j', (s.emit item).job x = some j' ∧ j'.phase = .built)) ∧
    (8 ≤ s.queue.length →
      s.emit item = { s with builder := { s.builder with state := .waitRoom, held := some item } })) ∧
  ∀ (s : State) (x : SlotId) (j : Job), s.tryHead = none → s.tryDivider = none → s.builder.state = .walking →
    s.builder.job = some x → s.job x = some j →
      let i := s.builder.index
      let entry (k : Nat) : Word := j.record + BitVec.ofNat 32 (48 + 32 * k)
      s.entries = j.entries ∧
      (s.builder.task = .entry →
        (i < j.entries → s.ownStep = some (s.readAsked .entryRead (entry i) 8)) ∧
        (j.entries ≤ i → s.builder.stack = [] → s.ownStep = some (s.walking .finish i)) ∧
        ∀ c below, j.entries ≤ i → s.builder.stack = c :: below →
          s.ownStep = some (s.takeFault x .repeatUnmatched c.openIndex)) ∧
      (∀ image, s.builder.task = .extension image → s.ownStep = some (s.readAsked .entryRead (entry (i + 1)) 8)) ∧
      (∀ opened, s.builder.task = .closeSlot opened →
        s.ownStep = some (s.readAsked .entryRead (entry opened.closeIndex) 8)) ∧
      (∀ row count, s.builder.task = .blank row count →
        s.ownStep = some (s.emit (.row x ⟨true, List.replicate 640 ⟨0#4, 0#2, false⟩⟩))) ∧
      (s.builder.task = .hold → s.ownStep = some (s.emit (.hold x))) ∧
      (∀ src, s.builder.task = .table src →
        ((∃ y, Item.swap y ∈ s.queue) →
          s.ownStep = some { s with builder := { s.builder with state := .waitStage } }) ∧
        ((∀ y, Item.swap y ∉ s.queue) → s.ownStep = some (s.readAsked .tableRead src 5))) ∧
      (s.builder.task = .finish → s.ownStep = some (s.emit (.finish x))) ∧
      (s.builder.task = .setupBlock →
        ((∃ y, Item.setup y ∈ s.queue) →
          s.ownStep = some { s with builder := { s.builder with state := .waitStage } }) ∧
        ((∀ y, Item.setup y ∉ s.queue) → s.ownStep = some (s.readAsked .setupBlockRead (j.record + 48#32) 16))) ∧
      (∀ p, s.builder.task = .setupMap p → s.ownStep = some (s.readAsked .mapRead p.mapAddress 40)) ∧
      (s.builder.task = .setupItem → s.ownStep = some (s.emit (.setup x)))

/-- The eight conditions on the pass number and LAST of the innermost context, and on BATCH; with the stack empty the
pass number is 1 and LAST false. -/
def Obligations.Conditions : Prop :=
  (∀ (s : State) (batch : Bool) (condition : Condition),
    let pass := match s.builder.stack with | [] => 1 | c :: _ => c.pass
    let last := match s.builder.stack with | [] => False | c :: _ => c.count = some c.pass
    s.condition condition batch = true ↔
      match condition with
      | .always => True
      | .first => pass = 1
      | .notFirst => 1 < pass
      | .odd => pass % 2 = 1
      | .even => pass % 2 = 0
      | .last => last
      | .batchOn => batch = true
      | .batchOff => batch = false) ∧
  ∀ e : Entry, e.cond = match (e.w0 >>> 4) &&& 7#32 with
    | 0#32 => .always
    | 1#32 => .first
    | 2#32 => .notFirst
    | 3#32 => .odd
    | 4#32 => .even
    | 5#32 => .last
    | 6#32 => .batchOn
    | _ => .batchOff

/-- The entry read that ends with data is walked by its kind: IMAGE, BLANK, WAIT_MARK, TABLE and END, true and false,
and an entry of no kind or an OVERLAY_EXT met by itself (R3, R5 to R11, R21). With the second slot of an IMAGE with
EXT, the pairing check and the extension's COND come first, then the image's condition, its content and the
extension's content (R7, R8). KIND, EXT, COUNT and SRC stand where TABLE 10-2 and TABLE 10-3 say, and the content checks
are the ranges of TABLE 1-2 and TABLE 1-3. -/
def Obligations.EntriesWalked : Prop :=
  (∀ (w0 w1 w2 w3 w4 : Word) (rest : List Word),
    Entry.ofWords (w0 :: w1 :: w2 :: w3 :: w4 :: rest) = ⟨w0, w1, w2, w3, w4⟩) ∧
  (∀ e : Entry,
    (e.kind = match e.w0.extractLsb' 0 4 with
      | 1#4 => some .image
      | 2#4 => some .overlayExt
      | 3#4 => some .blank
      | 4#4 => some .waitMark
      | 5#4 => some .table
      | 6#4 => some .repeatOpen
      | 7#4 => some .repeatClose
      | 8#4 => some .repeatExit
      | 9#4 => some .finish
      | _ => none) ∧
    e.ext = e.w0.getLsbD 9 ∧ e.count = (e.w0.extractLsb' 16 16).toNat ∧ e.src = e.w1) ∧
  (∀ f : ImageFields, f.legal = true ↔
    f.src.toNat % 4 = 0 ∧ (4 ≤ f.stride ∧ f.stride ≤ 65532 ∧ f.stride % 4 = 0) ∧ f.depth ∈ [1, 2, 4] ∧
    f.firstBit ≤ 31 ∧ (1 ≤ f.count ∧ f.count ≤ 65535) ∧ f.nozzle ≤ 639 ∧
    (1 ≤ f.width ∧ f.width ≤ 640 ∧ f.nozzle + f.width ≤ 640)) ∧
  (∀ (o : OverlayFields) (count : Nat), o.legal count = true ↔
    o.src.toNat % 4 = 0 ∧ (4 ≤ o.stride ∧ o.stride ≤ 65532 ∧ o.stride % 4 = 0) ∧ o.depth ∈ [1, 2] ∧
    o.firstBit ≤ 31 ∧ o.nozzle ≤ 639 ∧ (1 ≤ o.width ∧ o.width ≤ 640 ∧ o.nozzle + o.width ≤ 640) ∧
    o.rowFirst ≤ 65534 ∧ (1 ≤ o.rows ∧ o.rowFirst + o.rows ≤ count)) ∧
  (∀ (s : State) (words : List Word) (batch : Bool), s.readEnds .entryRead → s.builder.task = .entry →
    let e := Entry.ofWords words
    let done := s.entryDone batch
    let i := s.builder.index
    let true_ := s.condition e.cond batch = true
    let command := exec (.entryReadDone (.data words) batch) s
    (e.kind = none ∨ e.kind = some .overlayExt →
      command = .next (State.rest (done.faultBuilding .entryIllegal i))) ∧
    (e.kind = some .image → e.ext = false →
      (¬true_ → command = .next (State.rest (done.walking .entry (i + 1)))) ∧
      (true_ → e.imageFields.legal = false →
        command = .next (State.rest (done.faultBuilding .entryIllegal i))) ∧
      (true_ → e.imageFields.legal = true →
        command = .next (State.rest (done.walking (.image e.imageFields none 0) i)))) ∧
    (e.kind = some .image → e.ext = true →
      (i + 1 = s.entries → command = .next (State.rest (done.faultBuilding .entryIllegal i))) ∧
      (i + 1 ≠ s.entries → command = .next (State.rest (done.walking (.extension e) i)))) ∧
    (e.kind = some .blank →
      (¬true_ → command = .next (State.rest (done.walking .entry (i + 1)))) ∧
      (true_ → e.count = 0 → command = .next (State.rest (done.faultBuilding .entryIllegal i))) ∧
      (true_ → e.count ≠ 0 → command = .next (State.rest (done.walking (.blank 0 e.count) i)))) ∧
    (e.kind = some .waitMark →
      (¬true_ → command = .next (State.rest (done.walking .entry (i + 1)))) ∧
      (true_ → command = .next (State.rest (done.walking .hold i)))) ∧
    (e.kind = some .table →
      (¬true_ → command = .next (State.rest (done.walking .entry (i + 1)))) ∧
      (true_ → e.src.toNat % 4 ≠ 0 → command = .next (State.rest (done.faultBuilding .entryIllegal i))) ∧
      (true_ → e.src.toNat % 4 = 0 → command = .next (State.rest (done.walking (.table e.src) i)))) ∧
    (e.kind = some .finish →
      (¬true_ → command = .next (State.rest (done.walking .entry (i + 1)))) ∧
      (true_ → s.builder.stack = [] → command = .next (State.rest (done.walking .finish i))) ∧
      (true_ → s.builder.stack ≠ [] → command = .next (State.rest (done.faultBuilding .repeatUnmatched i))))) ∧
  (∀ (s : State) (image : Entry) (words : List Word) (batch : Bool), s.readEnds .entryRead →
    s.builder.task = .extension image →
    let ext := Entry.ofWords words
    let done := s.entryDone batch
    let i := s.builder.index
    let command := exec (.entryReadDone (.data words) batch) s
    (ext.kind ≠ some .overlayExt → command = .next (State.rest (done.faultBuilding .entryIllegal i))) ∧
    (ext.kind = some .overlayExt →
      (ext.cond ≠ .always → command = .next (State.rest (done.faultBuilding .entryIllegal (i + 1)))) ∧
      (ext.cond = .always →
        (s.condition image.cond batch = false →
          command = .next (State.rest (done.walking .entry (i + 2)))) ∧
        (s.condition image.cond batch = true →
          (image.imageFields.legal = false →
            command = .next (State.rest (done.faultBuilding .entryIllegal i))) ∧
          (image.imageFields.legal = true →
            (ext.overlayFields.legal image.count = false →
              command = .next (State.rest (done.faultBuilding .entryIllegal (i + 1)))) ∧
            (ext.overlayFields.legal image.count = true →
              command = .next (State.rest
                (done.walking (.image image.imageFields (some ext.overlayFields) 0) i))))))))

/-- REPEAT_OPEN with its CLOSE slot, REPEAT_CLOSE and REPEAT_EXIT: the checks in their order, the contexts pushed,
passed again and popped, and the passes of an outermost repeat counted (R16, R18 to R20). KIND, FOREVER, COUNT and CLOSE
stand where TABLE 10-2 and TABLE 10-3 say. -/
def Obligations.RepeatsWalked : Prop :=
  (∀ (w0 w1 w2 w3 w4 : Word) (rest : List Word),
    Entry.ofWords (w0 :: w1 :: w2 :: w3 :: w4 :: rest) = ⟨w0, w1, w2, w3, w4⟩) ∧
  (∀ e : Entry,
    (e.kind = some .repeatOpen ↔ e.w0.extractLsb' 0 4 = 6#4) ∧
    (e.kind = some .repeatClose ↔ e.w0.extractLsb' 0 4 = 7#4) ∧
    (e.kind = some .repeatExit ↔ e.w0.extractLsb' 0 4 = 8#4) ∧
    e.forever = e.w0.getLsbD 8 ∧ e.count = (e.w0.extractLsb' 16 16).toNat ∧
    e.closeIndex = (e.w1.extractLsb' 0 8).toNat) ∧
  ∀ (s : State) (words : List Word) (batch : Bool), s.readEnds .entryRead →
    let e := Entry.ofWords words
    let done := s.entryDone batch
    let i := s.builder.index
    let command := exec (.entryReadDone (.data words) batch) s
    (s.builder.task = .entry → e.kind = some .repeatOpen →
      (e.cond ≠ .always → command = .next (State.rest (done.faultBuilding .entryIllegal i))) ∧
      (e.cond = .always → ¬(i < e.closeIndex ∧ e.closeIndex < s.entries) →
        command = .next (State.rest (done.faultBuilding .repeatUnmatched i))) ∧
      (e.cond = .always → i < e.closeIndex ∧ e.closeIndex < s.entries →
        command = .next (State.rest (done.walking (.closeSlot e) i)))) ∧
    (∀ opened, s.builder.task = .closeSlot opened →
      (e.kind ≠ some .repeatClose → command = .next (State.rest (done.faultBuilding .repeatUnmatched i))) ∧
      (e.kind = some .repeatClose →
        (∀ c below, s.builder.stack = c :: below → c.closeIndex ≤ opened.closeIndex →
          command = .next (State.rest (done.faultBuilding .repeatUnmatched i))) ∧
        ((∀ c below, s.builder.stack = c :: below → opened.closeIndex < c.closeIndex) →
          (opened.count = 0 → opened.forever = false →
            command = .next (State.rest (done.walking .entry (opened.closeIndex + 1)))) ∧
          (opened.count ≠ 0 ∨ opened.forever = true →
            (4 ≤ s.builder.stack.length →
              command = .next (State.rest (done.faultBuilding .repeatDepth i))) ∧
            (s.builder.stack.length < 4 →
              command = .next (State.rest { done with builder := { done.builder with
                state := .walking
                task := .entry
                index := i + 1
                stack := ⟨i, opened.closeIndex, if opened.forever then none else some opened.count, 1, false⟩ ::
                  s.builder.stack } })))))) ∧
    (s.builder.task = .entry → e.kind = some .repeatClose →
      (e.cond ≠ .always → command = .next (State.rest (done.faultBuilding .entryIllegal i))) ∧
      (e.cond = .always →
        (s.builder.stack = [] → command = .next (State.rest (done.faultBuilding .repeatUnmatched i))) ∧
        ∀ c below, s.builder.stack = c :: below →
          (c.closeIndex ≠ i → command = .next (State.rest (done.faultBuilding .repeatUnmatched i))) ∧
          (c.closeIndex = i →
            (c.count = none → c.emitted = false →
              command = .next (State.rest (done.faultBuilding .emptyPass i))) ∧
            (c.count ≠ none ∨ c.emitted = true →
              let counted := match below, s.builder.job with
                | [], some x => done.mapCounts x fun k => { k with outerPasses := satInc k.outerPasses }
                | _, _ => done
              ((∀ n, c.count = some n → c.pass < n) →
                command = .next (State.rest { counted with builder := { done.builder with
                  state := .walking
                  task := .entry
                  index := c.openIndex + 1
                  stack := { c with
                    pass := if c.pass = 4294967295 then 2 else c.pass + 1
                    emitted := false } :: below } })) ∧
              (∀ n, c.count = some n → n ≤ c.pass →
                command = .next (State.rest { counted with builder := { done.builder with
                  state := .walking, task := .entry, index := i + 1, stack := below } })))))) ∧
    (s.builder.task = .entry → e.kind = some .repeatExit →
      (s.builder.stack = [] → command = .next (State.rest (done.faultBuilding .repeatUnmatched i))) ∧
      ∀ c below, s.builder.stack = c :: below →
        (s.condition e.cond batch = true →
          command = .next (State.rest { done with builder := { done.builder with
            state := .walking, task := .entry, index := c.closeIndex + 1, stack := below } })) ∧
        (s.condition e.cond batch = false → command = .next (State.rest (done.walking .entry (i + 1)))))

/-- An image row read gives its row, or asks for the overlay of a row that carries one; an overlay read gives the row
with its overlay. The builder in WALKING requests both reads, with no item to take at the head and no trigger due,
where SRC, STRIDE and REVERSE say, for the words the row spans. The dots of an image row (R31), laid over by its
overlay (R32, R33): levels on the nozzle range, level 0 outside it, overlay values on theirs, covered marks with
OPAQUE. The fields of both entries stand where TABLE 10-2 and TABLE 10-3 say. -/
def Obligations.RowsBuilt : Prop :=
  (∀ (s : State) (x : SlotId) (f : ImageFields) (r : Nat), s.tryHead = none → s.tryDivider = none →
    s.builder.state = .walking → s.builder.job = some x →
      (∀ o, s.builder.task = .image f o r → s.ownStep = some (s.readAsked .rowRead (f.rowAddress r) f.rowWords)) ∧
      ∀ o dots, s.builder.task = .overlay f o r dots →
        s.ownStep = some (s.readAsked .overlayRead (o.rowAddress r) o.rowWords)) ∧
  (∀ e : Entry, e.imageFields = ⟨e.w1, (e.w2.extractLsb' 0 16).toNat, (e.w2.extractLsb' 16 3).toNat,
      (e.w2.extractLsb' 24 8).toNat, (e.w0.extractLsb' 16 16).toNat, (e.w3.extractLsb' 0 16).toNat,
      (e.w3.extractLsb' 16 16).toNat, e.w0.getLsbD 8, e.w0.getLsbD 10⟩ ∧
    e.overlayFields = ⟨e.w1, (e.w2.extractLsb' 0 16).toNat, (e.w2.extractLsb' 16 3).toNat,
      (e.w2.extractLsb' 24 8).toNat, (e.w3.extractLsb' 0 16).toNat, (e.w3.extractLsb' 16 16).toNat,
      (e.w4.extractLsb' 0 16).toNat, (e.w4.extractLsb' 16 16).toNat⟩) ∧
  ((∀ (s : State) (words : List Word) (f : ImageFields) (x : SlotId) (r : Nat),
    s.readEnds .rowRead → s.builder.job = some x →
      (s.builder.task = .image f none r → exec (.rowReadDone (.data words)) s =
        .next (State.rest (s.readDone.emit (.row x ⟨false, f.dots words⟩)))) ∧
      ∀ o, s.builder.task = .image f (some o) r →
        (¬(o.rowFirst ≤ r ∧ r < o.rowFirst + o.rows) → exec (.rowReadDone (.data words)) s =
          .next (State.rest (s.readDone.emit (.row x ⟨false, f.dots words⟩)))) ∧
        (o.rowFirst ≤ r ∧ r < o.rowFirst + o.rows → exec (.rowReadDone (.data words)) s =
          .next (State.rest (s.readDone.walking (.overlay f o r (f.dots words)) s.builder.index)))) ∧
  (∀ (s : State) (words : List Word) (f : ImageFields) (o : OverlayFields) (dots : List Dot) (x : SlotId) (r : Nat),
    s.readEnds .overlayRead → s.builder.job = some x → s.builder.task = .overlay f o r dots →
      exec (.overlayReadDone (.data words)) s =
        .next (State.rest (s.readDone.emit (.row x ⟨false, o.lay f.opaqueFlag words dots⟩)))) ∧
  ∀ (f : ImageFields) (o : OverlayFields) (r : Nat),
    f.rowAddress r = f.src + BitVec.ofNat 32 ((if f.reverse then f.count - 1 - r else r) * f.stride) ∧
    f.rowWords = (f.firstBit + f.width * f.depth + 31) / 32 ∧
    o.rowAddress r = o.src + BitVec.ofNat 32 ((r - o.rowFirst) * o.stride) ∧
    o.rowWords = (o.firstBit + o.width * o.depth + 31) / 32) ∧
  ((∀ (f : ImageFields) (words : List Word) (n : Nat), n < 640 → (f.dots words)[n]? = some
    (if f.nozzle ≤ n ∧ n < f.nozzle + f.width then
      ⟨levelOf f.depth (pixelAt (rowString words) f.firstBit f.depth (n - f.nozzle)), 0#2, false⟩
    else ⟨0#4, 0#2, false⟩)) ∧
  (∀ (f : OverlayFields) (opaqueFlag : Bool) (words : List Word) (dots : List Dot) (n : Nat) (d : Dot),
    dots[n]? = some d → (f.lay opaqueFlag words dots)[n]? = some
      (if f.nozzle ≤ n ∧ n < f.nozzle + f.width then
        ⟨d.level, overlayOf f.depth (pixelAt (rowString words) f.firstBit f.depth (n - f.nozzle)), opaqueFlag⟩
      else d)) ∧
  ((levelOf 1 0 = 0#4 ∧ levelOf 1 1 = 15#4) ∧
    (levelOf 2 0 = 0#4 ∧ levelOf 2 1 = 5#4 ∧ levelOf 2 2 = 10#4 ∧ levelOf 2 3 = 15#4) ∧
    (∀ value < 16, levelOf 4 value = BitVec.ofNat 4 value) ∧
    (overlayOf 1 0 = 0#2 ∧ overlayOf 1 1 = 3#2) ∧ ∀ value < 4, overlayOf 2 value = BitVec.ofNat 2 value))

/-- A table read writes all 20 entries of the standby bank from the 20 bytes, leaves the active bank, and emits a
SWAP. -/
def Obligations.TableLoaded : Prop :=
  (∀ (s : State) (words : List Word) (x : SlotId), s.readEnds .tableRead → s.builder.job = some x →
    exec (.tableReadDone (.data words)) s =
      .next (State.rest (State.emit { s.readDone with
        mapper := if s.mapper.active = .a then { s.mapper with bankB := dropTableOf words }
          else { s.mapper with bankA := dropTableOf words } } (.swap x)))) ∧
  ∀ (words : List Word) (k : Nat), k < 20 → (dropTableOf words)[k]? = some
    ⟨(wordAt words (k / 4)).extractLsb' (8 * (k % 4)) 2, (wordAt words (k / 4)).extractLsb' (8 * (k % 4) + 2) 2⟩

/-- A setup block with a parameter out of range (TABLE 8-1) faults its job; one in range is staged alone when
MAP_ADDRESS is 0, and otherwise its map is read; a map with an entry of 3 faults the job, and a legal one is staged
with the block. The parameters stand in the block, and the nozzles in the map, where TABLE 10-4 and section 10.5 say.
-/
def Obligations.SetupJudgedAndStaged : Prop :=
  ((∀ (s : State) (words : List Word), s.readEnds .setupBlockRead →
    let p := SetupParams.ofWords words
    (p.inRange = false → exec (.setupBlockReadDone (.data words)) s =
      .next (State.rest (s.readDone.faultBuilding .setupRange 0))) ∧
    (p.inRange = true → p.mapAddress = 0#32 → exec (.setupBlockReadDone (.data words)) s =
      .next (State.rest (State.walking { s.readDone with staging := .block p } .setupItem s.builder.index))) ∧
    (p.inRange = true → p.mapAddress ≠ 0#32 → exec (.setupBlockReadDone (.data words)) s =
      .next (State.rest (s.readDone.walking (.setupMap p) s.builder.index)))) ∧
  ∀ (s : State) (words : List Word) (p : SetupParams), s.readEnds .mapRead → s.builder.task = .setupMap p →
    ((∃ n < 640, mapValue words n = 3) → exec (.mapReadDone (.data words)) s =
      .next (State.rest (s.readDone.faultBuilding .setupRange 0))) ∧
    ∀ map : List NozzleState, map.length = 640 →
      (∀ n < 640, (mapValue words n = 0 ∧ map[n]? = some .good) ∨ (mapValue words n = 1 ∧ map[n]? = some .weak) ∨
        (mapValue words n = 2 ∧ map[n]? = some .out)) →
      exec (.mapReadDone (.data words)) s =
        .next (State.rest (State.walking { s.readDone with staging := .blockAndMap p map } .setupItem
          s.builder.index))) ∧
  (∀ p : SetupParams, p.inRange = true ↔
    (1 ≤ p.pitch ∧ p.pitch ≤ 4096) ∧ p.pitchTrim ≤ 15 ∧ p.printDelay.toNat ≤ 1048575 ∧ p.markEdge ≤ 1 ∧
    (1 ≤ p.markMin ∧ p.markMin ≤ 255) ∧ (p.markMax = 0 ∨ (p.markMin ≤ p.markMax ∧ p.markMax ≤ 65535)) ∧
    p.markGap ≤ 65535 ∧ p.reverseLimit ≤ 65535 ∧ (1 ≤ p.stillTime ∧ p.stillTime ≤ 10000) ∧ p.tickleIdle ≤ 60000 ∧
    (100 ≤ p.ticklePeriod ∧ p.ticklePeriod ≤ 65535) ∧ p.tickleCadence ∈ [1, 2, 4, 8] ∧ p.warmupTime ≤ 10000 ∧
    p.linkRate ≤ 3 ∧ p.levelMask ≤ 15 ∧ (50 ≤ p.pollInterval ∧ p.pollInterval ≤ 65535) ∧ p.mapAddress.toNat % 32 = 0) ∧
  (∀ (words : List Word) (k : Nat) (w : Word), words[k]? = some w → wordAt words k = w) ∧
  (∀ (words : List Word) (n : Nat),
    mapValue words n = ((wordAt words (n / 16)).extractLsb' (2 * (n % 16)) 2).toNat) ∧
  ∀ words : List Word,
    let p := SetupParams.ofWords words
    let field (k lo len : Nat) : Nat := ((wordAt words k).extractLsb' lo len).toNat
    p.pitch = field 0 0 16 ∧ p.pitchTrim = field 0 16 8 ∧ p.markEdge = field 0 24 8 ∧ p.printDelay = wordAt words 1 ∧
    p.markMin = field 2 0 16 ∧ p.markMax = field 2 16 16 ∧ p.markGap = field 3 0 16 ∧ p.reverseLimit = field 3 16 16 ∧
    p.stillTime = field 4 0 16 ∧ p.tickleIdle = field 4 16 16 ∧ p.ticklePeriod = field 5 0 16 ∧
    p.tickleCadence = field 5 16 8 ∧ p.linkRate = field 5 24 8 ∧ p.tickleGroups.toNat = field 6 0 16 ∧
    p.levelMask = field 6 16 8 ∧ p.warmupTime = field 7 0 16 ∧ p.pollInterval = field 7 16 16 ∧
    p.mapAddress = wordAt words 8

/-- A bus error on a read of the builder gives the building job FETCH_BUS: at the entry walked, at the extension's own
index, at the IMAGE, at the OVERLAY_EXT, at the TABLE, and at 0 for a setup job. -/
def Obligations.FetchErrors : Prop :=
  ∀ s : State,
    (∀ batch, s.readEnds .entryRead →
      ((∀ image, s.builder.task ≠ .extension image) → exec (.entryReadDone .busError batch) s =
        .next (State.rest ((s.entryDone batch).faultBuilding .fetchBus s.builder.index))) ∧
      (∀ image, s.builder.task = .extension image → exec (.entryReadDone .busError batch) s =
        .next (State.rest ((s.entryDone batch).faultBuilding .fetchBus (s.builder.index + 1))))) ∧
    (s.readEnds .rowRead → exec (.rowReadDone .busError) s =
      .next (State.rest (s.readDone.faultBuilding .fetchBus s.builder.index))) ∧
    (s.readEnds .overlayRead → exec (.overlayReadDone .busError) s =
      .next (State.rest (s.readDone.faultBuilding .fetchBus (s.builder.index + 1)))) ∧
    (s.readEnds .tableRead → exec (.tableReadDone .busError) s =
      .next (State.rest (s.readDone.faultBuilding .fetchBus s.builder.index))) ∧
    (s.readEnds .setupBlockRead → exec (.setupBlockReadDone .busError) s =
      .next (State.rest (s.readDone.faultBuilding .fetchBus 0))) ∧
    (s.readEnds .mapRead → exec (.mapReadDone .busError) s =
      .next (State.rest (s.readDone.faultBuilding .fetchBus 0)))

/-- A transaction whose outcome is no longer wanted ends with the outcome discarded: the port is free, the slot of an
abandoned read is told, and a look that was left is over. What it wrote in memory is written: an exchange writes TAKEN
over READY with RELEASED clear, a result write its word, a release RELEASED; a state update that is discarded may have
written (log 28). -/
def Obligations.OutcomesDiscarded : Prop :=
  ∀ (s : State) (t : Transaction), s.pins.resetActive = false → s.port.current = some t → t.wanted = false →
    let free : State := { s.portFreed with builder := { s.builder with orphan := none } }
    (t.kind = .rowRead → ∀ result, exec (.rowReadDone result) s = .next free.rest) ∧
    (t.kind = .overlayRead → ∀ result, exec (.overlayReadDone result) s = .next free.rest) ∧
    (t.kind = .tableRead → ∀ result, exec (.tableReadDone result) s = .next free.rest) ∧
    (t.kind = .setupBlockRead → ∀ result, exec (.setupBlockReadDone result) s = .next free.rest) ∧
    (t.kind = .mapRead → ∀ result, exec (.mapReadDone result) s = .next free.rest) ∧
    (t.kind = .entryRead → ∀ result batch, exec (.entryReadDone result batch) s =
      .next (State.rest { free with pins := { s.pins with batch := batch } })) ∧
    let ended : State := { s.portFreed with walker := { s.walker with state := .idle, stage := .none } }
    (t.kind = .linkRead → ∀ result, exec (.linkReadDone result) s = .next ended.rest) ∧
    (t.kind = .stateRead → ∀ result, exec (.stateReadDone result) s = .next ended.rest) ∧
    (t.kind = .headerRead → ∀ result, exec (.headerReadDone result) s = .next ended.rest) ∧
    let unknown : Outputs := ⟨none, 0, .mayHaveWritten t.address⟩
    let wrote (word : Word) : Outputs := ⟨none, 0, .wrote t.address word⟩
    (t.kind = .takeExchange →
      exec (.takeExchangeDone .busError) s = .next (State.rest { ended with outs := unknown }) ∧
      ∀ word : Word,
        (released word = false → recordState word = some .ready →
          exec (.takeExchangeDone (.data word)) s =
            .next (State.rest { ended with outs := wrote (takenWord word) })) ∧
        (released word = true ∨ recordState word ≠ some .ready →
          exec (.takeExchangeDone (.data word)) s = .next ended.rest)) ∧
    (t.kind = .resultWrite →
      exec (.resultWriteDone .busError) s = .next (State.rest { s.portFreed with outs := unknown }) ∧
      exec (.resultWriteDone .done) s = .next (State.rest { s.portFreed with outs := wrote t.value })) ∧
    (t.kind = .stateUpdate → ∀ result,
      exec (.stateUpdateDone result) s = .next (State.rest { s.portFreed with outs := unknown })) ∧
    (t.kind = .release →
      exec (.releaseDone .busError) s = .next (State.rest { s.portFreed with outs := unknown }) ∧
      ∀ word : Word, exec (.releaseDone (.data word)) s =
        .next (State.rest { s.portFreed with outs := wrote (releasedWord word) }))

/-- HELD_ITEM_ENTER: an item held in WAIT_ROOM enters the queue when it has room. STAGE_WAIT_END: the builder in
WAIT_STAGE requests its read when no SWAP, or no SETUP, stands in the queue. -/
def Obligations.BuilderWaitsEnd : Prop :=
  ∀ s : State, s.pins.resetActive = false →
    (∀ item, s.builder.state = .waitRoom → s.builder.held = some item →
      (s.queue.length < 8 → exec .heldItemEnter s =
        .next (State.rest (State.emit { s with outs := Outputs.none } item))) ∧
      (8 ≤ s.queue.length → exec .heldItemEnter s = .next { s with outs := Outputs.none })) ∧
    (s.builder.state ≠ .waitRoom → exec .heldItemEnter s = .next { s with outs := Outputs.none }) ∧
    (∀ x src, s.builder.state = .waitStage → s.builder.job = some x → s.builder.task = .table src →
      ((∃ y, Item.swap y ∈ s.queue) → exec .stageWaitEnd s = .next { s with outs := Outputs.none }) ∧
      ((∀ y, Item.swap y ∉ s.queue) → s.port.outstanding .builder = false →
        exec .stageWaitEnd s = .next (State.rest { s with
          builder := { s.builder with state := .fetching, want := none }
          port := { s.port with builderReq := some ⟨.tableRead, src, 5, 0#32, true⟩ }
          outs := Outputs.none })) ∧
      ((∀ y, Item.swap y ∉ s.queue) → s.port.outstanding .builder = true →
        exec .stageWaitEnd s = .next (State.rest { s with
          builder := { s.builder with state := .fetching, want := some ⟨.tableRead, src, 5, 0#32, true⟩ }
          outs := Outputs.none }))) ∧
    (∀ x j, s.builder.state = .waitStage → s.builder.job = some x → s.job x = some j →
      s.builder.task = .setupBlock →
      let read : Transaction := ⟨.setupBlockRead, j.record + 48#32, 16, 0#32, true⟩
      ((∃ y, Item.setup y ∈ s.queue) → exec .stageWaitEnd s = .next { s with outs := Outputs.none }) ∧
      ((∀ y, Item.setup y ∉ s.queue) → s.port.outstanding .builder = false →
        exec .stageWaitEnd s = .next (State.rest { s with
          builder := { s.builder with state := .fetching, want := none }
          port := { s.port with builderReq := some read }
          outs := Outputs.none })) ∧
      ((∀ y, Item.setup y ∉ s.queue) → s.port.outstanding .builder = true →
        exec .stageWaitEnd s = .next (State.rest { s with
          builder := { s.builder with state := .fetching, want := some read }
          outs := Outputs.none }))) ∧
    (s.builder.state ≠ .waitStage → exec .stageWaitEnd s = .next { s with outs := Outputs.none })

/-! ### The record walker and the record writer (chapter 7) -/

/-- CHAIN_LOOK begins when a look is owed, the engine RUNNING, the builder FREE, a slot free, the walker not LOOKING
and no release waits: it reads the anchor's LINK. Without all of them nothing happens. The poll timer's expiry owes a
look. -/
def Obligations.LooksBegin : Prop :=
  ∀ s : State, s.pins.resetActive = false →
    (s.walker.lookOwed = true → s.ctl.engine = .running → s.builder.state = .free →
      s.slots.slot0 = none ∨ s.slots.slot1 = none → s.walker.state ≠ .looking →
      (∀ record, WriteTask.release record ∉ s.writer.list) →
        exec .chainLook s = .next (State.rest { s with
          walker := { s.walker with state := .looking, stage := .link, lookOwed := false, pollTimer := .stopped }
          port := { s.port with walkerReq := some ⟨.linkRead, s.walker.anchor + 4#32, 1, 0#32, true⟩ }
          outs := Outputs.none })) ∧
    (s.walker.lookOwed = false ∨ s.ctl.engine ≠ .running ∨ s.builder.state ≠ .free ∨
      (s.slots.slot0 ≠ none ∧ s.slots.slot1 ≠ none) ∨ s.walker.state = .looking ∨
      (∃ record, WriteTask.release record ∈ s.writer.list) →
        exec .chainLook s = .next { s with outs := Outputs.none }) ∧
    (s.walker.pollTimer ≠ .stopped → exec .pollTimerExpiry s = .next (State.rest { s with
      walker := { s.walker with state := .idle, pollTimer := .stopped, lookOwed := true }
      outs := Outputs.none })) ∧
    (s.walker.pollTimer = .stopped → exec .pollTimerExpiry s = .next { s with outs := Outputs.none })

/-- The reads of a look: LINK 0, misaligned or a record (R130); the state word of the record (R131); its header, after
which the exchange is issued (R132). A bus error is READ_BUS. -/
def Obligations.LookReads : Prop :=
  ∀ s : State,
    let done := s.portFreed
    let waited : State :=
      if s.ctl.engine = .running ∧ s.walker.lookOwed = false then { done with walker := { s.walker with
        state := .waiting, stage := .none, pollTimer := .running s.walker.pollInterval } }
      else { done with walker := { s.walker with state := .idle, stage := .none } }
    let asked (stage : LookStage) (kind : TxKind) (record : Word) (words : Nat) : State := { done with
      walker := { s.walker with state := .looking, stage := stage }
      port := { done.port with walkerReq := some ⟨kind, record, words, 0#32, true⟩ } }
    (s.ends .linkRead → s.walker.stage = .link →
      exec (.linkReadDone .busError) s = .next (State.rest (done.chainFault .readBus)) ∧
      exec (.linkReadDone (.data 0#32)) s = .next waited.rest ∧
      ∀ link : Word, link ≠ 0#32 →
        (link.toNat % 32 ≠ 0 →
          exec (.linkReadDone (.data link)) s = .next (State.rest (done.chainFault .linkMisaligned))) ∧
        (link.toNat % 32 = 0 →
          exec (.linkReadDone (.data link)) s = .next (State.rest (asked (.state link) .stateRead link 1)))) ∧
    (∀ linked, s.ends .stateRead → s.walker.stage = .state linked →
      exec (.stateReadDone .busError) s = .next (State.rest (done.chainFault .readBus)) ∧
      ∀ word : Word,
        (released word = true ∨ recordState word = some .taken ∨ recordState word = some .done ∨
          recordState word = some .faulted ∨ recordState word = none →
          exec (.stateReadDone (.data word)) s = .next (State.rest (done.chainFault .staleState))) ∧
        (released word = false → recordState word = some .empty →
          exec (.stateReadDone (.data word)) s = .next waited.rest) ∧
        (released word = false → recordState word = some .ready →
          exec (.stateReadDone (.data word)) s =
            .next (State.rest (asked (.header linked) .headerRead linked 12))) ∧
        (released word = false → recordState word = some .withdrawn → s.ctl.engine = .running →
          exec (.stateReadDone (.data word)) s = .next (State.rest { done with
            walker := { s.walker with state := .looking, stage := .releaseWait, anchor := linked }
            writer := { s.writer with list := s.writer.list ++ [.release s.walker.anchor] } }))) ∧
    ∀ linked, s.ends .headerRead → s.walker.stage = .header linked →
      exec (.headerReadDone .busError) s = .next (State.rest (done.chainFault .readBus)) ∧
      ∀ words, exec (.headerReadDone (.data words)) s = .next (State.rest
        (asked (.exchange linked (Header.ofWord (wordAt words 0))) .takeExchange linked 1))

/-- The exchange of a take that returns READY: TAKEN is written, the record is the anchor, the previous one is
released, and the job is placed in the lower-numbered free slot, BUILDING with a valid header; it completes at once
with HEADER_INVALID, or with HALTED in ABANDONING, and a look is owed. One that does not return READY writes nothing,
and the look ends in a wait, skips the record, or is STALE_STATE; a bus error is READ_BUS. The header is valid for
KIND PRINT with 1 to 64 entries and for KIND SETUP. -/
def Obligations.TakeExchange : Prop :=
  (∀ (s : State) (linked : Word) (header : Header) (word : Word) (x : SlotId),
    s.ends .takeExchange → (∀ t, s.port.current = some t → t.address = linked) →
    s.walker.stage = .exchange linked header → released word = false → recordState word = some .ready →
    s.slots.freeSlot = some x →
      let job (phase : Phase) (fault : Option (FaultCode × Nat)) : Job :=
        ⟨linked, header.kind, header.entries, header.notify, header.strict, phase, fault, Counts.zero, ⟨0, 0, 0⟩⟩
      let done : State := { s.portFreed with outs := ⟨none, 0, .wrote linked (takenWord word)⟩ }
      let left : Walker := { s.walker with anchor := linked, state := .idle, stage := .none }
      ((s.slots.slot0 = none ↔ x = .slot0)) ∧
      (header.valid = true → s.ctl.engine ≠ .abandoning →
        ∃ u, exec (.takeExchangeDone (.data word)) s = .next (State.rest u) ∧
          u.walker = left ∧ u.outs = done.outs ∧ u.port = done.port ∧ u.ctl = s.ctl ∧ u.queue = s.queue ∧
          u.writer = { s.writer with list := s.writer.list ++ [.release s.walker.anchor] } ∧
          u.job x = some (job .building none) ∧ u.job (otherSlot x) = s.job (otherSlot x) ∧
          u.slots.oldest = some (if (s.job (otherSlot x)).isSome then otherSlot x else x) ∧
          u.builder = ⟨.walking, some x, 0, [], if header.kind = 1#2 then .entry else .setupBlock, none, none,
            s.builder.orphan⟩) ∧
      (header.valid = false ∨ s.ctl.engine = .abandoning →
        ∃ u, exec (.takeExchangeDone (.data word)) s = .next (State.rest u) ∧
          u.walker = { left with lookOwed := true } ∧ u.outs = done.outs ∧ u.port = done.port ∧ u.ctl = s.ctl ∧
          u.queue = s.queue ∧ u.builder = s.builder ∧
          (u.writer.list = s.writer.list ++ [.release s.walker.anchor, .completion x s.tracker.epos] ∨
            u.writer.list = s.writer.list ++ [.completion x s.tracker.epos, .release s.walker.anchor]) ∧
          u.job x = some (job .completing
            (some (if header.valid = false then FaultCode.headerInvalid else .halted, 0))) ∧
          u.job (otherSlot x) = s.job (otherSlot x))) ∧
  ((∀ (s : State) (linked : Word) (header : Header), s.ends .takeExchange →
    (∀ t, s.port.current = some t → t.address = linked) → s.walker.stage = .exchange linked header →
      let done := s.portFreed
      exec (.takeExchangeDone .busError) s = .next (State.rest
        (State.chainFault { done with outs := ⟨none, 0, .mayHaveWritten linked⟩ } .readBus)) ∧
      ∀ word : Word,
        (released word = true ∨ recordState word = some .taken ∨ recordState word = some .done ∨
          recordState word = some .faulted ∨ recordState word = none →
          exec (.takeExchangeDone (.data word)) s = .next (State.rest (done.chainFault .staleState))) ∧
        (released word = false → recordState word = some .empty →
          exec (.takeExchangeDone (.data word)) s = .next (State.rest
            (if s.ctl.engine = .running ∧ s.walker.lookOwed = false then { done with walker := { s.walker with
              state := .waiting, stage := .none, pollTimer := .running s.walker.pollInterval } }
            else { done with walker := { s.walker with state := .idle, stage := .none } }))) ∧
        (released word = false → recordState word = some .withdrawn →
          exec (.takeExchangeDone (.data word)) s = .next (State.rest { done with
            walker := { s.walker with
              state := if s.ctl.engine = .running then .looking else .idle
              stage := if s.ctl.engine = .running then .releaseWait else .none
              anchor := linked }
            writer := { s.writer with list := s.writer.list ++ [.release s.walker.anchor] } }))) ∧
  ∀ h : Header, h.valid = true ↔ (h.kind = 1#2 ∧ 1 ≤ h.entries ∧ h.entries ≤ 64) ∨ h.kind = 2#2)

/-- A chain fault: FAULTED with its cause and CHAIN attention, every slot, list, queue and stage empty, the builder
FREE, the walker IDLE with its anchor kept, the marks flushed, the print state OUT, the head OFF with its shift
aborted and one pulse on HL_CLR for each. The transaction in progress goes on unwanted; with the port free, as it is at
the end of a transaction, it is the one that the grant at that end gives: a request of the builder that has waited, else
one of the walker, else one of the builder. No request waits afterwards, so that no transaction is made after it; a
request of the writer is gone (log 12). In FAULTED there is no second chain fault. -/
def Obligations.ChainFaultTaken : Prop :=
  (∀ (s : State) (cause : ChainCause), s.ctl.engine ≠ .faulted →
    let t := s.chainFault cause
    t.ctl = ⟨.faulted, s.ctl.refused, s.ctl.attn ||| 0x04#8, s.ctl.attnEn, cause⟩ ∧
    t.slots.slot0 = none ∧ t.slots.slot1 = none ∧ t.writer.list = [] ∧ t.queue = [] ∧ t.staging = .empty ∧
    t.builder = Builder.reset ∧
    t.walker = ⟨.idle, false, .stopped, s.walker.pollInterval, s.walker.anchor, .none⟩ ∧
    (∀ x, s.port.current = some x → t.port.current = some { x with wanted := false }) ∧
    (s.port.current = none →
      (∀ x, s.port.builderReq = some x → s.port.builderWaited = true ∨ s.port.walkerReq = none →
        t.port.current = some { x with wanted := false }) ∧
      (∀ x, s.port.walkerReq = some x → s.port.builderReq = none ∨ s.port.builderWaited = false →
        t.port.current = some { x with wanted := false }) ∧
      (s.port.builderReq = none → s.port.walkerReq = none → t.port.current = none)) ∧
    t.port.builderReq = none ∧ t.port.writerReq = none ∧ t.port.walkerReq = none ∧ t.port.builderWaited = false ∧
    t.tracker = { s.tracker with marks := [], previous := none } ∧
    t.firing = { s.firing with print := .out, divider := none, trimIndex := 1 } ∧ t.mapper = s.mapper ∧
    t.head.state = .off ∧ t.head.shift = .idle ∧ t.head.warmupTimer = .stopped ∧ t.head.idleTimer = .stopped ∧
    t.head.periodTimer = .stopped ∧ t.head.tickleActive = false ∧ t.head.periodCount = 0 ∧
    t.head.settings = s.head.settings ∧
    t.outs.clr = s.outs.clr + (if s.head.shift = .idle then 0 else 1) + 1 ∧ t.outs.fire = s.outs.fire ∧
    t.outs.bus = s.outs.bus ∧ t.pins = s.pins) ∧
  ∀ (s : State) (cause : ChainCause), s.ctl.engine = .faulted → s.chainFault cause = s

/-- A result write that ends counts on to the next; a state update that finds TAKEN writes the final state, frees the
slot, removes the task, sets DONE or FAULT attention and owes a look; a release that ends is removed. A state update
that does not find TAKEN is STALE_STATE, and a bus error is WRITE_BUS. The result words are those of TABLE 10-1. The
writer requests the next transaction of its head task as soon as it has none outstanding; at rest none is left to
request. -/
def Obligations.RecordsWritten : Prop :=
  (∀ (c : Counts) (epos : Word),
    resultWord c epos 0 = c.rowsFired ∧
    (resultWord c epos 1).extractLsb' 0 16 = c.productsStarted ∧
    (resultWord c epos 1).extractLsb' 16 16 = c.productsMissed ∧
    (resultWord c epos 2).extractLsb' 0 16 = c.underruns ∧ (resultWord c epos 2).extractLsb' 16 16 = c.overspeeds ∧
    resultWord c epos 3 = c.substitutions ∧ resultWord c epos 4 = c.lostDots ∧
    (resultWord c epos 5).extractLsb' 0 16 = c.marksShort ∧ (resultWord c epos 5).extractLsb' 16 16 = c.marksLong ∧
    (resultWord c epos 6).extractLsb' 0 16 = c.marksClose ∧ (resultWord c epos 6).extractLsb' 16 16 = c.marksDropped ∧
    resultWord c epos 7 = c.outerPasses ∧ resultWord c epos 8 = epos) ∧
  (∀ s : State,
    (s.writer.list = [] → s.nextWrite = none) ∧
    (∀ record tasks, s.writer.list = .release record :: tasks →
      s.nextWrite = some ⟨.release, record, 1, 0#32, true⟩) ∧
    (s.port.outstanding .writer = true → s.tryWriter = none) ∧
    (∀ t, s.port.outstanding .writer = false → s.nextWrite = some t →
      s.tryWriter = some { s with port := { s.port with writerReq := some t } }) ∧
    (s.AtRest → s.port.outstanding .writer = false → s.nextWrite = none)) ∧
  (∀ (s : State) (t : Transaction), s.pins.resetActive = false → s.port.current = some t → t.wanted = true →
    let done := s.portFreed
    let failed : State := { done with outs := ⟨none, 0, .mayHaveWritten t.address⟩ }
    (t.kind = .resultWrite →
      exec (.resultWriteDone .busError) s = .next (State.rest (failed.chainFault .writeBus)) ∧
      exec (.resultWriteDone .done) s = .next (State.rest { done with
        writer := { s.writer with written := s.writer.written + 1 }
        outs := ⟨none, 0, .wrote t.address t.value⟩ })) ∧
    (t.kind = .stateUpdate →
      exec (.stateUpdateDone .busError) s = .next (State.rest (failed.chainFault .writeBus)) ∧
      ∀ word : Word,
        (recordState word ≠ some .taken →
          exec (.stateUpdateDone (.data word)) s = .next (State.rest (done.chainFault .staleState))) ∧
        ∀ x epos tasks j, s.writer.list = .completion x epos :: tasks → s.job x = some j →
          recordState word = some .taken →
            exec (.stateUpdateDone (.data word)) s = .next (State.rest { done with
              slots := { s.slots.put x none with older := otherSlot x }
              writer := ⟨tasks, 0⟩
              walker := { s.walker with lookOwed := true }
              ctl := { s.ctl with attn :=
                if j.fault ≠ none then s.ctl.attn ||| 0x02#8
                else if j.notify then s.ctl.attn ||| 0x01#8 else s.ctl.attn }
              outs := ⟨none, 0, .wrote t.address (completedWord word j.fault)⟩ })) ∧
    (t.kind = .release →
      (∀ record tasks, s.writer.list = .release record :: tasks → s.walker.stage ≠ .releaseWait → ∀ word : Word,
        exec (.releaseDone (.data word)) s = .next (State.rest { done with
          writer := ⟨tasks, 0⟩
          outs := ⟨none, 0, .wrote t.address (releasedWord word)⟩ })) ∧
      (∀ record tasks, s.writer.list = .release record :: tasks → s.walker.stage = .releaseWait → ∀ word : Word,
        exec (.releaseDone (.data word)) s = .next (State.rest { done with
          writer := ⟨tasks, 0⟩
          walker := { s.walker with state := .looking, stage := .link }
          port := { done.port with walkerReq := some ⟨.linkRead, s.walker.anchor + 4#32, 1, 0#32, true⟩ }
          outs := ⟨none, 0, .wrote t.address (releasedWord word)⟩ })) ∧
      exec (.releaseDone .busError) s = .next (State.rest (failed.chainFault .writeBus)))) ∧
  ∀ (s : State) (x : SlotId) (epos : Word) (tasks : List WriteTask) (j : Job),
    s.writer.list = .completion x epos :: tasks → s.job x = some j →
      (∀ k, s.writer.written = k → k < 9 → s.nextWrite =
        some ⟨.resultWrite, j.record + BitVec.ofNat 32 (0x0C + 4 * k), 1, resultWord j.counts epos k, true⟩) ∧
      (9 ≤ s.writer.written → s.nextWrite = some ⟨.stateUpdate, j.record, 1, 0#32, true⟩)

/-- The words the engine writes over a state word change the fields they name alone: STATE at the take, RELEASED at the
release, STATE, FAULT and FAULT_ENTRY at the completion (TABLE 10-1). The fields it reads of one stand where the table
says, and the fault codes are those of TABLE 7-6. -/
def Obligations.StateWordFields : Prop :=
  (∀ w : Word,
    (bits (takenWord w) 0 3 = 2 ∧ ∀ i, 3 ≤ i → i < 32 → (takenWord w).getLsbD i = w.getLsbD i) ∧
    (released (releasedWord w) = true ∧ ∀ i, i ≠ 3 → i < 32 → (releasedWord w).getLsbD i = w.getLsbD i) ∧
    (bits (completedWord w none) 0 3 = 3 ∧ bits (completedWord w none) 16 8 = 0 ∧
      bits (completedWord w none) 24 6 = 0) ∧
    (∀ (code : FaultCode) (entry : Nat), entry < 64 →
      bits (completedWord w (some (code, entry))) 0 3 = 4 ∧
      bits (completedWord w (some (code, entry))) 16 8 = code.code ∧
      bits (completedWord w (some (code, entry))) 24 6 = entry) ∧
    ∀ (fault : Option (FaultCode × Nat)) (i : Nat), (3 ≤ i ∧ i < 16) ∨ 30 ≤ i → i < 32 →
      (completedWord w fault).getLsbD i = w.getLsbD i) ∧
  (∀ w : Word, released w = w.getLsbD 3 ∧
    (recordState w = match w.extractLsb' 0 3 with
      | 0#3 => some .empty
      | 1#3 => some .ready
      | 2#3 => some .taken
      | 3#3 => some .done
      | 4#3 => some .faulted
      | 5#3 => some .withdrawn
      | _ => none) ∧
    Header.ofWord w = ⟨w.extractLsb' 4 2, (w.extractLsb' 8 8).toNat, w.getLsbD 6, w.getLsbD 7⟩) ∧
  (∀ (w : Word) (lo len : Nat), bits w lo len = (w.extractLsb' lo len).toNat) ∧
  FaultCode.code .headerInvalid = 0x01 ∧ FaultCode.code .entryIllegal = 0x02 ∧
  FaultCode.code .repeatUnmatched = 0x03 ∧ FaultCode.code .repeatDepth = 0x04 ∧ FaultCode.code .emptyPass = 0x05 ∧
  FaultCode.code .fetchBus = 0x06 ∧ FaultCode.code .setupRange = 0x07 ∧ FaultCode.code .underrun = 0x08 ∧
  FaultCode.code .overspeed = 0x09 ∧ FaultCode.code .headLost = 0x0A ∧ FaultCode.code .reverseLimit = 0x0B ∧
  FaultCode.code .cancelled = 0x0C ∧ FaultCode.code .halted = 0x0D

/-- PORT_GRANT: the port, when free, goes to the builder's request that was already waiting at the last grant, else to
the record writer, else to the walker, else to the builder. With a transaction in progress, or no request, or in
FAULTED, nothing happens. -/
def Obligations.PortGranted : Prop :=
  ∀ s : State, s.pins.resetActive = false →
    (∀ t, s.port.current = some t → exec .portGrant s = .next { s with outs := Outputs.none }) ∧
    (s.port.builderReq = none → s.port.writerReq = none → s.port.walkerReq = none →
      exec .portGrant s = .next { s with outs := Outputs.none }) ∧
    (s.ctl.engine = .faulted → exec .portGrant s = .next { s with outs := Outputs.none }) ∧
    (s.port.current = none → s.ctl.engine ≠ .faulted →
      (∀ t, s.port.builderReq = some t →
        s.port.builderWaited = true ∨ (s.port.writerReq = none ∧ s.port.walkerReq = none) →
          exec .portGrant s = .next (State.rest { s with
            port := { s.port with current := some t, builderReq := none, builderWaited := false }
            outs := Outputs.none })) ∧
      (∀ t, s.port.writerReq = some t → s.port.builderReq = none ∨ s.port.builderWaited = false →
        exec .portGrant s = .next (State.rest { s with
          port := { s.port with
            current := some t, writerReq := none, builderWaited := s.port.builderReq.isSome }
          outs := Outputs.none })) ∧
      ∀ t, s.port.walkerReq = some t → s.port.writerReq = none →
        s.port.builderReq = none ∨ s.port.builderWaited = false →
          exec .portGrant s = .next (State.rest { s with
            port := { s.port with
              current := some t, walkerReq := none, builderWaited := s.port.builderReq.isSome }
            outs := Outputs.none }))

/-- END_TAKEN: an END at the head whose job has no row shift in flight is taken, and COMPLETION_BEGIN: a faulted job
with no read and no row shift outstanding; each makes the job COMPLETING and hands the writer its completion, with the
EPOS of the moment. Otherwise nothing happens. -/
def Obligations.CompletionsBegin : Prop :=
  ∀ (s : State) (x : SlotId), s.pins.resetActive = false →
    let completing : State := { s.mapJob x (fun j => { j with phase := .completing }) with
      writer := { s.writer with list := s.writer.list ++ [.completion x s.tracker.epos] }
      outs := Outputs.none }
    (∀ items, s.queue = .finish x :: items →
      (s.shifting x = false → exec .endTaken s = .next (State.rest { completing with queue := items })) ∧
      (s.shifting x = true → exec .endTaken s = .next { s with outs := Outputs.none })) ∧
    ((∀ y items, s.queue ≠ .finish y :: items) → exec .endTaken s = .next { s with outs := Outputs.none }) ∧
    (∀ j, s.job x = some j →
      (j.fault ≠ none → j.phase ≠ .completing → s.builder.job ≠ some x → s.builder.orphan ≠ some x →
        s.shifting x = false → exec (.completionBegin x) s = .next completing.rest) ∧
      (j.fault = none ∨ j.phase = .completing ∨ s.builder.job = some x ∨ s.builder.orphan = some x ∨
        s.shifting x = true → exec (.completionBegin x) s = .next { s with outs := Outputs.none })) ∧
    (s.job x = none → exec (.completionBegin x) s = .next { s with outs := Outputs.none })

/-- DRAIN_END: with no job held, no take in progress, the write list empty and no walker read outstanding, a DRAINING or
ABANDONING engine is STOPPED with STOPPED attention, the head OFF with one pulse on HL_CLR for it and one for a shift it
aborts, the print state OUT, the marks flushed and the walker IDLE. Otherwise nothing happens. -/
def Obligations.DrainEnds : Prop :=
  ∀ s : State, s.pins.resetActive = false →
    (s.ctl.engine = .draining ∨ s.ctl.engine = .abandoning → s.slots.slot0 = none → s.slots.slot1 = none →
      (∀ linked header, s.walker.stage ≠ .exchange linked header) → s.writer.list = [] →
      s.port.outstanding .walker = false →
        ∃ u, exec .drainEnd s = .next (State.rest u) ∧
          u.ctl = { s.ctl with engine := .stopped, attn := s.ctl.attn ||| 0x20#8 } ∧
          u.tracker = { s.tracker with marks := [], previous := none } ∧
          u.firing = { s.firing with print := .out, divider := none, trimIndex := 1 } ∧
          u.walker = { s.walker with state := .idle, stage := .none } ∧ u.head.state = .off ∧ u.head.shift = .idle ∧
          u.head.warmupTimer = .stopped ∧ u.head.idleTimer = .stopped ∧ u.head.periodTimer = .stopped ∧
          u.head.tickleActive = false ∧ u.head.settings = s.head.settings ∧
          u.outs = ⟨none, if s.head.shift = .idle then 1 else 2, .nothing⟩ ∧
          u.slots = s.slots ∧ u.queue = s.queue ∧ u.builder = s.builder ∧ u.mapper = s.mapper ∧
          u.staging = s.staging) ∧
    ((s.ctl.engine ≠ .draining ∧ s.ctl.engine ≠ .abandoning) ∨ s.slots.slot0 ≠ none ∨ s.slots.slot1 ≠ none ∨
      (∃ linked header, s.walker.stage = .exchange linked header) ∨ s.writer.list ≠ [] ∨
      s.port.outstanding .walker = true → exec .drainEnd s = .next { s with outs := Outputs.none })

/-- The first fault of a held job that is not COMPLETING: its code and index are kept, its items purged and its ROWs
discarded, the builder abandons it when it is building it, and the print state becomes OUT when it is the counting
job; the other job keeps its items. The staging area is emptied when it stands for a SETUP of the job, in the queue or
with the builder. A later fault, or one of a job COMPLETING, changes nothing. A fault the builder raises is one of its
job. -/
def Obligations.JobFaultTaken : Prop :=
  (∀ (s : State) (code : FaultCode) (entry : Nat),
    (∀ x, s.builder.job = some x → s.faultBuilding code entry = s.takeFault x code entry) ∧
    (s.builder.job = none → s.faultBuilding code entry = s)) ∧
  ∀ (s : State) (x : SlotId) (code : FaultCode) (entry : Nat),
    (∀ j, s.job x = some j → j.fault = none → j.phase ≠ .completing →
      let t := s.takeFault x code entry
      (∃ j', t.job x = some j' ∧ j'.fault = some (code, entry) ∧ j'.record = j.record ∧ j'.counts = j.counts ∧
        j'.phase = (if s.builder.job = some x then .built else j.phase) ∧
        j'.account.discarded = j.account.discarded + s.rowsQueued x) ∧
      t.job (otherSlot x) = s.job (otherSlot x) ∧ t.queue = (s.queue.filter fun item => item.slot != x) ∧
      (Item.setup x ∈ s.queue → t.staging = .empty) ∧
      (Item.setup x ∉ s.queue → t.staging =
        if s.builder.job = some x ∧ (s.builder.held = some (.setup x) ∨ s.builder.task = .setupItem) then .empty
        else s.staging) ∧
      (s.builder.job = some x → t.builder.state = .free ∧ t.builder.job = none ∧ t.builder.stack = [] ∧
        t.walker.lookOwed = true ∧
        t.builder.orphan = (if s.builder.state = .fetching ∧ s.builder.want = none then some x
          else s.builder.orphan)) ∧
      (s.builder.job ≠ some x → t.builder = s.builder ∧ t.walker = s.walker) ∧
      (s.countingJob = some x → t.firing = { s.firing with print := .out, divider := none }) ∧
      (s.countingJob ≠ some x → t.firing = s.firing) ∧
      t.ctl = s.ctl ∧ t.head = s.head ∧ t.tracker = s.tracker ∧ t.mapper = s.mapper ∧ t.writer = s.writer) ∧
    (∀ j, s.job x = some j → j.fault ≠ none ∨ j.phase = .completing → s.takeFault x code entry = s) ∧
    (s.job x = none → s.takeFault x code entry = s)

/-- The counting job is the oldest held job whose completion has not begun; a count goes to it alone. A counter of 16 or
32 bits below its largest value advances by exactly 1, and at its largest value stays; a number added to one of 32 bits
gives the sum, cut at the largest value. -/
def Obligations.CountingJob : Prop :=
  ((∀ x : BitVec 16, (x.toNat < 65535 → (satInc x).toNat = x.toNat + 1) ∧ (x.toNat = 65535 → satInc x = x)) ∧
    (∀ x : BitVec 32, (x.toNat < 4294967295 → (satInc x).toNat = x.toNat + 1) ∧
      (x.toNat = 4294967295 → satInc x = x)) ∧
    ∀ (x : BitVec 32) (n : Nat), (satAdd x n).toNat = min (x.toNat + n) 4294967295) ∧
  (∀ s : State,
    (∀ x, s.slots.oldest = some x → (∀ j, s.job x = some j → j.phase ≠ .completing) → s.countingJob = some x) ∧
    (∀ x j, s.slots.oldest = some x → s.job x = some j → j.phase = .completing →
      (∀ k, s.job (otherSlot x) = some k → k.phase ≠ .completing → s.countingJob = some (otherSlot x)) ∧
      ((s.job (otherSlot x) = none ∨ ∃ k, s.job (otherSlot x) = some k ∧ k.phase = .completing) →
        s.countingJob = none)) ∧
    (s.slots.oldest = none → s.countingJob = none)) ∧
  ∀ (s : State) (f : Counts → Counts),
    (s.countingJob = none → s.countIn f = s) ∧
    ∀ x j, s.countingJob = some x → s.job x = some j →
      (s.countIn f).job x = some { j with counts := f j.counts } ∧
      (s.countIn f).job (otherSlot x) = s.job (otherSlot x)

/-! ### Invariants -/

/-- The depths of the queues and of the stack, DEBT, the counters and the staged parameters stay in their bounds. -/
def Obligations.BoundsKept : Prop := StepKeeps State.Bounded

/-- The print state, the shift, the head's timers and the engine stay consistent: the print state is IN, and a shift in
flight, only with the head READY, and the head is OFF in STOPPED and FAULTED. -/
def Obligations.HeadFiringKept : Prop := StepKeeps State.HeadConsistent

/-- Every item, task, shift and build belongs to a held job of the right phase, the ROW items of each held job are
accounted for exactly, and nothing is held or queued in STOPPED and FAULTED. With it: the items of the older job stand
before those of the newer; one SWAP, one SETUP, one read of the builder and one release at a time; and the write list,
of a completion for each slot and one release, holds at most three tasks. -/
def Obligations.LinksKept : Prop :=
  StepKeeps (fun s => s.Linked ∧ s.Ordered) ∧ ∀ s : State, s.Linked → s.Ordered → s.writer.list.length ≤ 3

/-- The state after reset satisfies the invariants. -/
def Obligations.ResetMeetsInvariants : Prop :=
  State.reset.Bounded ∧ State.reset.HeadConsistent ∧ State.reset.Linked ∧ State.reset.Ordered
end

