-- ==== Sys2Proof/Laws/State.lean ====
section
/-! SUPPORT. One lemma per update and field it leaves alone, true by rfl, so that no later proof unfolds a record
update; and what each update does to the field it writes. -/

namespace Sys2Proof.Machine

/-! ### `State.raise` -/

@[simp] theorem raise_walker (s : State) (f : Attention) : (s.raise f).walker = s.walker := rfl
@[simp] theorem raise_writer (s : State) (f : Attention) : (s.raise f).writer = s.writer := rfl
@[simp] theorem raise_port (s : State) (f : Attention) : (s.raise f).port = s.port := rfl
@[simp] theorem raise_slots (s : State) (f : Attention) : (s.raise f).slots = s.slots := rfl
@[simp] theorem raise_builder (s : State) (f : Attention) : (s.raise f).builder = s.builder := rfl
@[simp] theorem raise_queue (s : State) (f : Attention) : (s.raise f).queue = s.queue := rfl
@[simp] theorem raise_staging (s : State) (f : Attention) : (s.raise f).staging = s.staging := rfl
@[simp] theorem raise_tracker (s : State) (f : Attention) : (s.raise f).tracker = s.tracker := rfl
@[simp] theorem raise_firing (s : State) (f : Attention) : (s.raise f).firing = s.firing := rfl
@[simp] theorem raise_mapper (s : State) (f : Attention) : (s.raise f).mapper = s.mapper := rfl
@[simp] theorem raise_head (s : State) (f : Attention) : (s.raise f).head = s.head := rfl
@[simp] theorem raise_pins (s : State) (f : Attention) : (s.raise f).pins = s.pins := rfl
@[simp] theorem raise_outs (s : State) (f : Attention) : (s.raise f).outs = s.outs := rfl
@[simp] theorem raise_free (s : State) (f : Attention) : (s.raise f).free = s.free := rfl
@[simp] theorem raise_pending (s : State) (f : Attention) : (s.raise f).pending = s.pending := rfl

/-! ### `State.quiet` -/

@[simp] theorem quiet_ctl (s : State) : (s.quiet).ctl = s.ctl := rfl
@[simp] theorem quiet_walker (s : State) : (s.quiet).walker = s.walker := rfl
@[simp] theorem quiet_writer (s : State) : (s.quiet).writer = s.writer := rfl
@[simp] theorem quiet_port (s : State) : (s.quiet).port = s.port := rfl
@[simp] theorem quiet_slots (s : State) : (s.quiet).slots = s.slots := rfl
@[simp] theorem quiet_builder (s : State) : (s.quiet).builder = s.builder := rfl
@[simp] theorem quiet_queue (s : State) : (s.quiet).queue = s.queue := rfl
@[simp] theorem quiet_staging (s : State) : (s.quiet).staging = s.staging := rfl
@[simp] theorem quiet_tracker (s : State) : (s.quiet).tracker = s.tracker := rfl
@[simp] theorem quiet_firing (s : State) : (s.quiet).firing = s.firing := rfl
@[simp] theorem quiet_mapper (s : State) : (s.quiet).mapper = s.mapper := rfl
@[simp] theorem quiet_head (s : State) : (s.quiet).head = s.head := rfl
@[simp] theorem quiet_pins (s : State) : (s.quiet).pins = s.pins := rfl
@[simp] theorem quiet_free (s : State) : (s.quiet).free = s.free := rfl
@[simp] theorem quiet_pending (s : State) : (s.quiet).pending = s.pending := rfl

/-! ### `State.oweLook` -/

@[simp] theorem oweLook_ctl (s : State) : (s.oweLook).ctl = s.ctl := rfl
@[simp] theorem oweLook_writer (s : State) : (s.oweLook).writer = s.writer := rfl
@[simp] theorem oweLook_port (s : State) : (s.oweLook).port = s.port := rfl
@[simp] theorem oweLook_slots (s : State) : (s.oweLook).slots = s.slots := rfl
@[simp] theorem oweLook_builder (s : State) : (s.oweLook).builder = s.builder := rfl
@[simp] theorem oweLook_queue (s : State) : (s.oweLook).queue = s.queue := rfl
@[simp] theorem oweLook_staging (s : State) : (s.oweLook).staging = s.staging := rfl
@[simp] theorem oweLook_tracker (s : State) : (s.oweLook).tracker = s.tracker := rfl
@[simp] theorem oweLook_firing (s : State) : (s.oweLook).firing = s.firing := rfl
@[simp] theorem oweLook_mapper (s : State) : (s.oweLook).mapper = s.mapper := rfl
@[simp] theorem oweLook_head (s : State) : (s.oweLook).head = s.head := rfl
@[simp] theorem oweLook_pins (s : State) : (s.oweLook).pins = s.pins := rfl
@[simp] theorem oweLook_outs (s : State) : (s.oweLook).outs = s.outs := rfl
@[simp] theorem oweLook_free (s : State) : (s.oweLook).free = s.free := rfl
@[simp] theorem oweLook_pending (s : State) : (s.oweLook).pending = s.pending := rfl

/-! ### `State.printOut` -/

@[simp] theorem printOut_ctl (s : State) : (s.printOut).ctl = s.ctl := rfl
@[simp] theorem printOut_walker (s : State) : (s.printOut).walker = s.walker := rfl
@[simp] theorem printOut_writer (s : State) : (s.printOut).writer = s.writer := rfl
@[simp] theorem printOut_port (s : State) : (s.printOut).port = s.port := rfl
@[simp] theorem printOut_slots (s : State) : (s.printOut).slots = s.slots := rfl
@[simp] theorem printOut_builder (s : State) : (s.printOut).builder = s.builder := rfl
@[simp] theorem printOut_queue (s : State) : (s.printOut).queue = s.queue := rfl
@[simp] theorem printOut_staging (s : State) : (s.printOut).staging = s.staging := rfl
@[simp] theorem printOut_tracker (s : State) : (s.printOut).tracker = s.tracker := rfl
@[simp] theorem printOut_mapper (s : State) : (s.printOut).mapper = s.mapper := rfl
@[simp] theorem printOut_head (s : State) : (s.printOut).head = s.head := rfl
@[simp] theorem printOut_pins (s : State) : (s.printOut).pins = s.pins := rfl
@[simp] theorem printOut_outs (s : State) : (s.printOut).outs = s.outs := rfl
@[simp] theorem printOut_free (s : State) : (s.printOut).free = s.free := rfl
@[simp] theorem printOut_pending (s : State) : (s.printOut).pending = s.pending := rfl

/-! ### `State.request` -/

@[simp] theorem request_ctl (s : State) (t : Transaction) : (s.request t).ctl = s.ctl := rfl
@[simp] theorem request_walker (s : State) (t : Transaction) : (s.request t).walker = s.walker := rfl
@[simp] theorem request_writer (s : State) (t : Transaction) : (s.request t).writer = s.writer := rfl
@[simp] theorem request_slots (s : State) (t : Transaction) : (s.request t).slots = s.slots := rfl
@[simp] theorem request_builder (s : State) (t : Transaction) : (s.request t).builder = s.builder := rfl
@[simp] theorem request_queue (s : State) (t : Transaction) : (s.request t).queue = s.queue := rfl
@[simp] theorem request_staging (s : State) (t : Transaction) : (s.request t).staging = s.staging := rfl
@[simp] theorem request_tracker (s : State) (t : Transaction) : (s.request t).tracker = s.tracker := rfl
@[simp] theorem request_firing (s : State) (t : Transaction) : (s.request t).firing = s.firing := rfl
@[simp] theorem request_mapper (s : State) (t : Transaction) : (s.request t).mapper = s.mapper := rfl
@[simp] theorem request_head (s : State) (t : Transaction) : (s.request t).head = s.head := rfl
@[simp] theorem request_pins (s : State) (t : Transaction) : (s.request t).pins = s.pins := rfl
@[simp] theorem request_outs (s : State) (t : Transaction) : (s.request t).outs = s.outs := rfl
@[simp] theorem request_free (s : State) (t : Transaction) : (s.request t).free = s.free := rfl
@[simp] theorem request_pending (s : State) (t : Transaction) : (s.request t).pending = s.pending := rfl

/-! ### `State.addTask` -/

@[simp] theorem addTask_ctl (s : State) (t : WriteTask) : (s.addTask t).ctl = s.ctl := rfl
@[simp] theorem addTask_walker (s : State) (t : WriteTask) : (s.addTask t).walker = s.walker := rfl
@[simp] theorem addTask_port (s : State) (t : WriteTask) : (s.addTask t).port = s.port := rfl
@[simp] theorem addTask_slots (s : State) (t : WriteTask) : (s.addTask t).slots = s.slots := rfl
@[simp] theorem addTask_builder (s : State) (t : WriteTask) : (s.addTask t).builder = s.builder := rfl
@[simp] theorem addTask_queue (s : State) (t : WriteTask) : (s.addTask t).queue = s.queue := rfl
@[simp] theorem addTask_staging (s : State) (t : WriteTask) : (s.addTask t).staging = s.staging := rfl
@[simp] theorem addTask_tracker (s : State) (t : WriteTask) : (s.addTask t).tracker = s.tracker := rfl
@[simp] theorem addTask_firing (s : State) (t : WriteTask) : (s.addTask t).firing = s.firing := rfl
@[simp] theorem addTask_mapper (s : State) (t : WriteTask) : (s.addTask t).mapper = s.mapper := rfl
@[simp] theorem addTask_head (s : State) (t : WriteTask) : (s.addTask t).head = s.head := rfl
@[simp] theorem addTask_pins (s : State) (t : WriteTask) : (s.addTask t).pins = s.pins := rfl
@[simp] theorem addTask_outs (s : State) (t : WriteTask) : (s.addTask t).outs = s.outs := rfl
@[simp] theorem addTask_free (s : State) (t : WriteTask) : (s.addTask t).free = s.free := rfl
@[simp] theorem addTask_pending (s : State) (t : WriteTask) : (s.addTask t).pending = s.pending := rfl

/-! ### `State.mapTracker` -/

@[simp] theorem mapTracker_ctl (s : State) (f : Tracker → Tracker) : (s.mapTracker f).ctl = s.ctl := rfl
@[simp] theorem mapTracker_walker (s : State) (f : Tracker → Tracker) : (s.mapTracker f).walker = s.walker := rfl
@[simp] theorem mapTracker_writer (s : State) (f : Tracker → Tracker) : (s.mapTracker f).writer = s.writer := rfl
@[simp] theorem mapTracker_port (s : State) (f : Tracker → Tracker) : (s.mapTracker f).port = s.port := rfl
@[simp] theorem mapTracker_slots (s : State) (f : Tracker → Tracker) : (s.mapTracker f).slots = s.slots := rfl
@[simp] theorem mapTracker_builder (s : State) (f : Tracker → Tracker) : (s.mapTracker f).builder = s.builder := rfl
@[simp] theorem mapTracker_queue (s : State) (f : Tracker → Tracker) : (s.mapTracker f).queue = s.queue := rfl
@[simp] theorem mapTracker_staging (s : State) (f : Tracker → Tracker) : (s.mapTracker f).staging = s.staging := rfl
@[simp] theorem mapTracker_firing (s : State) (f : Tracker → Tracker) : (s.mapTracker f).firing = s.firing := rfl
@[simp] theorem mapTracker_mapper (s : State) (f : Tracker → Tracker) : (s.mapTracker f).mapper = s.mapper := rfl
@[simp] theorem mapTracker_head (s : State) (f : Tracker → Tracker) : (s.mapTracker f).head = s.head := rfl
@[simp] theorem mapTracker_pins (s : State) (f : Tracker → Tracker) : (s.mapTracker f).pins = s.pins := rfl
@[simp] theorem mapTracker_outs (s : State) (f : Tracker → Tracker) : (s.mapTracker f).outs = s.outs := rfl
@[simp] theorem mapTracker_free (s : State) (f : Tracker → Tracker) : (s.mapTracker f).free = s.free := rfl
@[simp] theorem mapTracker_pending (s : State) (f : Tracker → Tracker) : (s.mapTracker f).pending = s.pending := rfl

/-! ### `State.mapBuilder` -/

@[simp] theorem mapBuilder_ctl (s : State) (f : Builder → Builder) : (s.mapBuilder f).ctl = s.ctl := rfl
@[simp] theorem mapBuilder_walker (s : State) (f : Builder → Builder) : (s.mapBuilder f).walker = s.walker := rfl
@[simp] theorem mapBuilder_writer (s : State) (f : Builder → Builder) : (s.mapBuilder f).writer = s.writer := rfl
@[simp] theorem mapBuilder_port (s : State) (f : Builder → Builder) : (s.mapBuilder f).port = s.port := rfl
@[simp] theorem mapBuilder_slots (s : State) (f : Builder → Builder) : (s.mapBuilder f).slots = s.slots := rfl
@[simp] theorem mapBuilder_queue (s : State) (f : Builder → Builder) : (s.mapBuilder f).queue = s.queue := rfl
@[simp] theorem mapBuilder_staging (s : State) (f : Builder → Builder) : (s.mapBuilder f).staging = s.staging := rfl
@[simp] theorem mapBuilder_tracker (s : State) (f : Builder → Builder) : (s.mapBuilder f).tracker = s.tracker := rfl
@[simp] theorem mapBuilder_firing (s : State) (f : Builder → Builder) : (s.mapBuilder f).firing = s.firing := rfl
@[simp] theorem mapBuilder_mapper (s : State) (f : Builder → Builder) : (s.mapBuilder f).mapper = s.mapper := rfl
@[simp] theorem mapBuilder_head (s : State) (f : Builder → Builder) : (s.mapBuilder f).head = s.head := rfl
@[simp] theorem mapBuilder_pins (s : State) (f : Builder → Builder) : (s.mapBuilder f).pins = s.pins := rfl
@[simp] theorem mapBuilder_outs (s : State) (f : Builder → Builder) : (s.mapBuilder f).outs = s.outs := rfl
@[simp] theorem mapBuilder_free (s : State) (f : Builder → Builder) : (s.mapBuilder f).free = s.free := rfl
@[simp] theorem mapBuilder_pending (s : State) (f : Builder → Builder) : (s.mapBuilder f).pending = s.pending := rfl

/-! ### `State.mapWalker` -/

@[simp] theorem mapWalker_ctl (s : State) (f : Walker → Walker) : (s.mapWalker f).ctl = s.ctl := rfl
@[simp] theorem mapWalker_writer (s : State) (f : Walker → Walker) : (s.mapWalker f).writer = s.writer := rfl
@[simp] theorem mapWalker_port (s : State) (f : Walker → Walker) : (s.mapWalker f).port = s.port := rfl
@[simp] theorem mapWalker_slots (s : State) (f : Walker → Walker) : (s.mapWalker f).slots = s.slots := rfl
@[simp] theorem mapWalker_builder (s : State) (f : Walker → Walker) : (s.mapWalker f).builder = s.builder := rfl
@[simp] theorem mapWalker_queue (s : State) (f : Walker → Walker) : (s.mapWalker f).queue = s.queue := rfl
@[simp] theorem mapWalker_staging (s : State) (f : Walker → Walker) : (s.mapWalker f).staging = s.staging := rfl
@[simp] theorem mapWalker_tracker (s : State) (f : Walker → Walker) : (s.mapWalker f).tracker = s.tracker := rfl
@[simp] theorem mapWalker_firing (s : State) (f : Walker → Walker) : (s.mapWalker f).firing = s.firing := rfl
@[simp] theorem mapWalker_mapper (s : State) (f : Walker → Walker) : (s.mapWalker f).mapper = s.mapper := rfl
@[simp] theorem mapWalker_head (s : State) (f : Walker → Walker) : (s.mapWalker f).head = s.head := rfl
@[simp] theorem mapWalker_pins (s : State) (f : Walker → Walker) : (s.mapWalker f).pins = s.pins := rfl
@[simp] theorem mapWalker_outs (s : State) (f : Walker → Walker) : (s.mapWalker f).outs = s.outs := rfl
@[simp] theorem mapWalker_free (s : State) (f : Walker → Walker) : (s.mapWalker f).free = s.free := rfl
@[simp] theorem mapWalker_pending (s : State) (f : Walker → Walker) : (s.mapWalker f).pending = s.pending := rfl

/-! ### `State.setRefused` -/

@[simp] theorem setRefused_walker (s : State) (b : Bool) : (s.setRefused b).walker = s.walker := rfl
@[simp] theorem setRefused_writer (s : State) (b : Bool) : (s.setRefused b).writer = s.writer := rfl
@[simp] theorem setRefused_port (s : State) (b : Bool) : (s.setRefused b).port = s.port := rfl
@[simp] theorem setRefused_slots (s : State) (b : Bool) : (s.setRefused b).slots = s.slots := rfl
@[simp] theorem setRefused_builder (s : State) (b : Bool) : (s.setRefused b).builder = s.builder := rfl
@[simp] theorem setRefused_queue (s : State) (b : Bool) : (s.setRefused b).queue = s.queue := rfl
@[simp] theorem setRefused_staging (s : State) (b : Bool) : (s.setRefused b).staging = s.staging := rfl
@[simp] theorem setRefused_tracker (s : State) (b : Bool) : (s.setRefused b).tracker = s.tracker := rfl
@[simp] theorem setRefused_firing (s : State) (b : Bool) : (s.setRefused b).firing = s.firing := rfl
@[simp] theorem setRefused_mapper (s : State) (b : Bool) : (s.setRefused b).mapper = s.mapper := rfl
@[simp] theorem setRefused_head (s : State) (b : Bool) : (s.setRefused b).head = s.head := rfl
@[simp] theorem setRefused_pins (s : State) (b : Bool) : (s.setRefused b).pins = s.pins := rfl
@[simp] theorem setRefused_outs (s : State) (b : Bool) : (s.setRefused b).outs = s.outs := rfl
@[simp] theorem setRefused_free (s : State) (b : Bool) : (s.setRefused b).free = s.free := rfl
@[simp] theorem setRefused_pending (s : State) (b : Bool) : (s.setRefused b).pending = s.pending := rfl

/-! ### `State.setEngine` -/

@[simp] theorem setEngine_walker (s : State) (e : EngineState) : (s.setEngine e).walker = s.walker := rfl
@[simp] theorem setEngine_writer (s : State) (e : EngineState) : (s.setEngine e).writer = s.writer := rfl
@[simp] theorem setEngine_port (s : State) (e : EngineState) : (s.setEngine e).port = s.port := rfl
@[simp] theorem setEngine_slots (s : State) (e : EngineState) : (s.setEngine e).slots = s.slots := rfl
@[simp] theorem setEngine_builder (s : State) (e : EngineState) : (s.setEngine e).builder = s.builder := rfl
@[simp] theorem setEngine_queue (s : State) (e : EngineState) : (s.setEngine e).queue = s.queue := rfl
@[simp] theorem setEngine_staging (s : State) (e : EngineState) : (s.setEngine e).staging = s.staging := rfl
@[simp] theorem setEngine_tracker (s : State) (e : EngineState) : (s.setEngine e).tracker = s.tracker := rfl
@[simp] theorem setEngine_firing (s : State) (e : EngineState) : (s.setEngine e).firing = s.firing := rfl
@[simp] theorem setEngine_mapper (s : State) (e : EngineState) : (s.setEngine e).mapper = s.mapper := rfl
@[simp] theorem setEngine_head (s : State) (e : EngineState) : (s.setEngine e).head = s.head := rfl
@[simp] theorem setEngine_pins (s : State) (e : EngineState) : (s.setEngine e).pins = s.pins := rfl
@[simp] theorem setEngine_outs (s : State) (e : EngineState) : (s.setEngine e).outs = s.outs := rfl
@[simp] theorem setEngine_free (s : State) (e : EngineState) : (s.setEngine e).free = s.free := rfl
@[simp] theorem setEngine_pending (s : State) (e : EngineState) : (s.setEngine e).pending = s.pending := rfl

/-! ### `State.setHead` -/

@[simp] theorem setHead_ctl (s : State) (h : HeadState) : (s.setHead h).ctl = s.ctl := rfl
@[simp] theorem setHead_walker (s : State) (h : HeadState) : (s.setHead h).walker = s.walker := rfl
@[simp] theorem setHead_writer (s : State) (h : HeadState) : (s.setHead h).writer = s.writer := rfl
@[simp] theorem setHead_port (s : State) (h : HeadState) : (s.setHead h).port = s.port := rfl
@[simp] theorem setHead_slots (s : State) (h : HeadState) : (s.setHead h).slots = s.slots := rfl
@[simp] theorem setHead_builder (s : State) (h : HeadState) : (s.setHead h).builder = s.builder := rfl
@[simp] theorem setHead_queue (s : State) (h : HeadState) : (s.setHead h).queue = s.queue := rfl
@[simp] theorem setHead_staging (s : State) (h : HeadState) : (s.setHead h).staging = s.staging := rfl
@[simp] theorem setHead_tracker (s : State) (h : HeadState) : (s.setHead h).tracker = s.tracker := rfl
@[simp] theorem setHead_firing (s : State) (h : HeadState) : (s.setHead h).firing = s.firing := rfl
@[simp] theorem setHead_mapper (s : State) (h : HeadState) : (s.setHead h).mapper = s.mapper := rfl
@[simp] theorem setHead_pins (s : State) (h : HeadState) : (s.setHead h).pins = s.pins := rfl
@[simp] theorem setHead_outs (s : State) (h : HeadState) : (s.setHead h).outs = s.outs := rfl
@[simp] theorem setHead_free (s : State) (h : HeadState) : (s.setHead h).free = s.free := rfl
@[simp] theorem setHead_pending (s : State) (h : HeadState) : (s.setHead h).pending = s.pending := rfl

/-! ### `State.onBus` -/

@[simp] theorem onBus_ctl (s : State) (b : BusOut) : (s.onBus b).ctl = s.ctl := rfl
@[simp] theorem onBus_walker (s : State) (b : BusOut) : (s.onBus b).walker = s.walker := rfl
@[simp] theorem onBus_writer (s : State) (b : BusOut) : (s.onBus b).writer = s.writer := rfl
@[simp] theorem onBus_port (s : State) (b : BusOut) : (s.onBus b).port = s.port := rfl
@[simp] theorem onBus_slots (s : State) (b : BusOut) : (s.onBus b).slots = s.slots := rfl
@[simp] theorem onBus_builder (s : State) (b : BusOut) : (s.onBus b).builder = s.builder := rfl
@[simp] theorem onBus_queue (s : State) (b : BusOut) : (s.onBus b).queue = s.queue := rfl
@[simp] theorem onBus_staging (s : State) (b : BusOut) : (s.onBus b).staging = s.staging := rfl
@[simp] theorem onBus_tracker (s : State) (b : BusOut) : (s.onBus b).tracker = s.tracker := rfl
@[simp] theorem onBus_firing (s : State) (b : BusOut) : (s.onBus b).firing = s.firing := rfl
@[simp] theorem onBus_mapper (s : State) (b : BusOut) : (s.onBus b).mapper = s.mapper := rfl
@[simp] theorem onBus_head (s : State) (b : BusOut) : (s.onBus b).head = s.head := rfl
@[simp] theorem onBus_pins (s : State) (b : BusOut) : (s.onBus b).pins = s.pins := rfl
@[simp] theorem onBus_free (s : State) (b : BusOut) : (s.onBus b).free = s.free := rfl
@[simp] theorem onBus_pending (s : State) (b : BusOut) : (s.onBus b).pending = s.pending := rfl

/-! ### `State.tickleOff` -/

@[simp] theorem tickleOff_ctl (s : State) : (s.tickleOff).ctl = s.ctl := rfl
@[simp] theorem tickleOff_walker (s : State) : (s.tickleOff).walker = s.walker := rfl
@[simp] theorem tickleOff_writer (s : State) : (s.tickleOff).writer = s.writer := rfl
@[simp] theorem tickleOff_port (s : State) : (s.tickleOff).port = s.port := rfl
@[simp] theorem tickleOff_slots (s : State) : (s.tickleOff).slots = s.slots := rfl
@[simp] theorem tickleOff_builder (s : State) : (s.tickleOff).builder = s.builder := rfl
@[simp] theorem tickleOff_queue (s : State) : (s.tickleOff).queue = s.queue := rfl
@[simp] theorem tickleOff_staging (s : State) : (s.tickleOff).staging = s.staging := rfl
@[simp] theorem tickleOff_tracker (s : State) : (s.tickleOff).tracker = s.tracker := rfl
@[simp] theorem tickleOff_firing (s : State) : (s.tickleOff).firing = s.firing := rfl
@[simp] theorem tickleOff_mapper (s : State) : (s.tickleOff).mapper = s.mapper := rfl
@[simp] theorem tickleOff_pins (s : State) : (s.tickleOff).pins = s.pins := rfl
@[simp] theorem tickleOff_outs (s : State) : (s.tickleOff).outs = s.outs := rfl
@[simp] theorem tickleOff_free (s : State) : (s.tickleOff).free = s.free := rfl
@[simp] theorem tickleOff_pending (s : State) : (s.tickleOff).pending = s.pending := rfl

/-! ### `State.restartIdle` -/

@[simp] theorem restartIdle_ctl (s : State) : (s.restartIdle).ctl = s.ctl := rfl
@[simp] theorem restartIdle_walker (s : State) : (s.restartIdle).walker = s.walker := rfl
@[simp] theorem restartIdle_writer (s : State) : (s.restartIdle).writer = s.writer := rfl
@[simp] theorem restartIdle_port (s : State) : (s.restartIdle).port = s.port := rfl
@[simp] theorem restartIdle_slots (s : State) : (s.restartIdle).slots = s.slots := rfl
@[simp] theorem restartIdle_builder (s : State) : (s.restartIdle).builder = s.builder := rfl
@[simp] theorem restartIdle_queue (s : State) : (s.restartIdle).queue = s.queue := rfl
@[simp] theorem restartIdle_staging (s : State) : (s.restartIdle).staging = s.staging := rfl
@[simp] theorem restartIdle_tracker (s : State) : (s.restartIdle).tracker = s.tracker := rfl
@[simp] theorem restartIdle_firing (s : State) : (s.restartIdle).firing = s.firing := rfl
@[simp] theorem restartIdle_mapper (s : State) : (s.restartIdle).mapper = s.mapper := rfl
@[simp] theorem restartIdle_pins (s : State) : (s.restartIdle).pins = s.pins := rfl
@[simp] theorem restartIdle_outs (s : State) : (s.restartIdle).outs = s.outs := rfl
@[simp] theorem restartIdle_free (s : State) : (s.restartIdle).free = s.free := rfl
@[simp] theorem restartIdle_pending (s : State) : (s.restartIdle).pending = s.pending := rfl

/-! ### `State.stopHeadTimers` -/

@[simp] theorem stopHeadTimers_ctl (s : State) : (s.stopHeadTimers).ctl = s.ctl := rfl
@[simp] theorem stopHeadTimers_walker (s : State) : (s.stopHeadTimers).walker = s.walker := rfl
@[simp] theorem stopHeadTimers_writer (s : State) : (s.stopHeadTimers).writer = s.writer := rfl
@[simp] theorem stopHeadTimers_port (s : State) : (s.stopHeadTimers).port = s.port := rfl
@[simp] theorem stopHeadTimers_slots (s : State) : (s.stopHeadTimers).slots = s.slots := rfl
@[simp] theorem stopHeadTimers_builder (s : State) : (s.stopHeadTimers).builder = s.builder := rfl
@[simp] theorem stopHeadTimers_queue (s : State) : (s.stopHeadTimers).queue = s.queue := rfl
@[simp] theorem stopHeadTimers_staging (s : State) : (s.stopHeadTimers).staging = s.staging := rfl
@[simp] theorem stopHeadTimers_tracker (s : State) : (s.stopHeadTimers).tracker = s.tracker := rfl
@[simp] theorem stopHeadTimers_firing (s : State) : (s.stopHeadTimers).firing = s.firing := rfl
@[simp] theorem stopHeadTimers_mapper (s : State) : (s.stopHeadTimers).mapper = s.mapper := rfl
@[simp] theorem stopHeadTimers_pins (s : State) : (s.stopHeadTimers).pins = s.pins := rfl
@[simp] theorem stopHeadTimers_outs (s : State) : (s.stopHeadTimers).outs = s.outs := rfl
@[simp] theorem stopHeadTimers_free (s : State) : (s.stopHeadTimers).free = s.free := rfl
@[simp] theorem stopHeadTimers_pending (s : State) : (s.stopHeadTimers).pending = s.pending := rfl

/-! ### `State.beginShift` -/

@[simp] theorem beginShift_ctl (s : State) (x : Shift) : (s.beginShift x).ctl = s.ctl := rfl
@[simp] theorem beginShift_walker (s : State) (x : Shift) : (s.beginShift x).walker = s.walker := rfl
@[simp] theorem beginShift_writer (s : State) (x : Shift) : (s.beginShift x).writer = s.writer := rfl
@[simp] theorem beginShift_port (s : State) (x : Shift) : (s.beginShift x).port = s.port := rfl
@[simp] theorem beginShift_slots (s : State) (x : Shift) : (s.beginShift x).slots = s.slots := rfl
@[simp] theorem beginShift_builder (s : State) (x : Shift) : (s.beginShift x).builder = s.builder := rfl
@[simp] theorem beginShift_queue (s : State) (x : Shift) : (s.beginShift x).queue = s.queue := rfl
@[simp] theorem beginShift_staging (s : State) (x : Shift) : (s.beginShift x).staging = s.staging := rfl
@[simp] theorem beginShift_tracker (s : State) (x : Shift) : (s.beginShift x).tracker = s.tracker := rfl
@[simp] theorem beginShift_firing (s : State) (x : Shift) : (s.beginShift x).firing = s.firing := rfl
@[simp] theorem beginShift_mapper (s : State) (x : Shift) : (s.beginShift x).mapper = s.mapper := rfl
@[simp] theorem beginShift_pins (s : State) (x : Shift) : (s.beginShift x).pins = s.pins := rfl
@[simp] theorem beginShift_outs (s : State) (x : Shift) : (s.beginShift x).outs = s.outs := rfl
@[simp] theorem beginShift_free (s : State) (x : Shift) : (s.beginShift x).free = s.free := rfl
@[simp] theorem beginShift_pending (s : State) (x : Shift) : (s.beginShift x).pending = s.pending := rfl

/-! ### `State.endShift` -/

@[simp] theorem endShift_ctl (s : State) (p : PulseKind) : (s.endShift p).ctl = s.ctl := rfl
@[simp] theorem endShift_walker (s : State) (p : PulseKind) : (s.endShift p).walker = s.walker := rfl
@[simp] theorem endShift_writer (s : State) (p : PulseKind) : (s.endShift p).writer = s.writer := rfl
@[simp] theorem endShift_port (s : State) (p : PulseKind) : (s.endShift p).port = s.port := rfl
@[simp] theorem endShift_slots (s : State) (p : PulseKind) : (s.endShift p).slots = s.slots := rfl
@[simp] theorem endShift_builder (s : State) (p : PulseKind) : (s.endShift p).builder = s.builder := rfl
@[simp] theorem endShift_queue (s : State) (p : PulseKind) : (s.endShift p).queue = s.queue := rfl
@[simp] theorem endShift_staging (s : State) (p : PulseKind) : (s.endShift p).staging = s.staging := rfl
@[simp] theorem endShift_tracker (s : State) (p : PulseKind) : (s.endShift p).tracker = s.tracker := rfl
@[simp] theorem endShift_firing (s : State) (p : PulseKind) : (s.endShift p).firing = s.firing := rfl
@[simp] theorem endShift_mapper (s : State) (p : PulseKind) : (s.endShift p).mapper = s.mapper := rfl
@[simp] theorem endShift_pins (s : State) (p : PulseKind) : (s.endShift p).pins = s.pins := rfl
@[simp] theorem endShift_free (s : State) (p : PulseKind) : (s.endShift p).free = s.free := rfl
@[simp] theorem endShift_pending (s : State) (p : PulseKind) : (s.endShift p).pending = s.pending := rfl

/-! ### `State.stopShift` -/

@[simp] theorem stopShift_ctl (s : State) : (s.stopShift).ctl = s.ctl := rfl
@[simp] theorem stopShift_walker (s : State) : (s.stopShift).walker = s.walker := rfl
@[simp] theorem stopShift_writer (s : State) : (s.stopShift).writer = s.writer := rfl
@[simp] theorem stopShift_port (s : State) : (s.stopShift).port = s.port := rfl
@[simp] theorem stopShift_slots (s : State) : (s.stopShift).slots = s.slots := rfl
@[simp] theorem stopShift_builder (s : State) : (s.stopShift).builder = s.builder := rfl
@[simp] theorem stopShift_queue (s : State) : (s.stopShift).queue = s.queue := rfl
@[simp] theorem stopShift_staging (s : State) : (s.stopShift).staging = s.staging := rfl
@[simp] theorem stopShift_tracker (s : State) : (s.stopShift).tracker = s.tracker := rfl
@[simp] theorem stopShift_firing (s : State) : (s.stopShift).firing = s.firing := rfl
@[simp] theorem stopShift_mapper (s : State) : (s.stopShift).mapper = s.mapper := rfl
@[simp] theorem stopShift_pins (s : State) : (s.stopShift).pins = s.pins := rfl
@[simp] theorem stopShift_pending (s : State) : (s.stopShift).pending = s.pending := rfl

/-! ### `State.freeStarted` -/

@[simp] theorem freeStarted_ctl (s : State) : (s.freeStarted).ctl = s.ctl := rfl
@[simp] theorem freeStarted_walker (s : State) : (s.freeStarted).walker = s.walker := rfl
@[simp] theorem freeStarted_writer (s : State) : (s.freeStarted).writer = s.writer := rfl
@[simp] theorem freeStarted_port (s : State) : (s.freeStarted).port = s.port := rfl
@[simp] theorem freeStarted_slots (s : State) : (s.freeStarted).slots = s.slots := rfl
@[simp] theorem freeStarted_builder (s : State) : (s.freeStarted).builder = s.builder := rfl
@[simp] theorem freeStarted_queue (s : State) : (s.freeStarted).queue = s.queue := rfl
@[simp] theorem freeStarted_staging (s : State) : (s.freeStarted).staging = s.staging := rfl
@[simp] theorem freeStarted_tracker (s : State) : (s.freeStarted).tracker = s.tracker := rfl
@[simp] theorem freeStarted_mapper (s : State) : (s.freeStarted).mapper = s.mapper := rfl
@[simp] theorem freeStarted_head (s : State) : (s.freeStarted).head = s.head := rfl
@[simp] theorem freeStarted_pins (s : State) : (s.freeStarted).pins = s.pins := rfl
@[simp] theorem freeStarted_outs (s : State) : (s.freeStarted).outs = s.outs := rfl
@[simp] theorem freeStarted_free (s : State) : (s.freeStarted).free = s.free := rfl
@[simp] theorem freeStarted_pending (s : State) : (s.freeStarted).pending = s.pending := rfl

/-! ### `State.firingRest` -/

@[simp] theorem firingRest_ctl (s : State) : (s.firingRest).ctl = s.ctl := rfl
@[simp] theorem firingRest_walker (s : State) : (s.firingRest).walker = s.walker := rfl
@[simp] theorem firingRest_writer (s : State) : (s.firingRest).writer = s.writer := rfl
@[simp] theorem firingRest_port (s : State) : (s.firingRest).port = s.port := rfl
@[simp] theorem firingRest_slots (s : State) : (s.firingRest).slots = s.slots := rfl
@[simp] theorem firingRest_builder (s : State) : (s.firingRest).builder = s.builder := rfl
@[simp] theorem firingRest_queue (s : State) : (s.firingRest).queue = s.queue := rfl
@[simp] theorem firingRest_staging (s : State) : (s.firingRest).staging = s.staging := rfl
@[simp] theorem firingRest_tracker (s : State) : (s.firingRest).tracker = s.tracker := rfl
@[simp] theorem firingRest_mapper (s : State) : (s.firingRest).mapper = s.mapper := rfl
@[simp] theorem firingRest_head (s : State) : (s.firingRest).head = s.head := rfl
@[simp] theorem firingRest_pins (s : State) : (s.firingRest).pins = s.pins := rfl
@[simp] theorem firingRest_outs (s : State) : (s.firingRest).outs = s.outs := rfl
@[simp] theorem firingRest_free (s : State) : (s.firingRest).free = s.free := rfl
@[simp] theorem firingRest_pending (s : State) : (s.firingRest).pending = s.pending := rfl

/-! ### `State.countStep` -/

@[simp] theorem countStep_ctl (s : State) : (s.countStep).ctl = s.ctl := rfl
@[simp] theorem countStep_walker (s : State) : (s.countStep).walker = s.walker := rfl
@[simp] theorem countStep_writer (s : State) : (s.countStep).writer = s.writer := rfl
@[simp] theorem countStep_port (s : State) : (s.countStep).port = s.port := rfl
@[simp] theorem countStep_slots (s : State) : (s.countStep).slots = s.slots := rfl
@[simp] theorem countStep_builder (s : State) : (s.countStep).builder = s.builder := rfl
@[simp] theorem countStep_queue (s : State) : (s.countStep).queue = s.queue := rfl
@[simp] theorem countStep_staging (s : State) : (s.countStep).staging = s.staging := rfl
@[simp] theorem countStep_tracker (s : State) : (s.countStep).tracker = s.tracker := rfl
@[simp] theorem countStep_mapper (s : State) : (s.countStep).mapper = s.mapper := rfl
@[simp] theorem countStep_head (s : State) : (s.countStep).head = s.head := rfl
@[simp] theorem countStep_pins (s : State) : (s.countStep).pins = s.pins := rfl
@[simp] theorem countStep_outs (s : State) : (s.countStep).outs = s.outs := rfl
@[simp] theorem countStep_free (s : State) : (s.countStep).free = s.free := rfl
@[simp] theorem countStep_pending (s : State) : (s.countStep).pending = s.pending := rfl

/-! ### `State.takeLines` -/

@[simp] theorem takeLines_ctl (s : State) (l : LineState) : (s.takeLines l).ctl = s.ctl := rfl
@[simp] theorem takeLines_walker (s : State) (l : LineState) : (s.takeLines l).walker = s.walker := rfl
@[simp] theorem takeLines_writer (s : State) (l : LineState) : (s.takeLines l).writer = s.writer := rfl
@[simp] theorem takeLines_port (s : State) (l : LineState) : (s.takeLines l).port = s.port := rfl
@[simp] theorem takeLines_slots (s : State) (l : LineState) : (s.takeLines l).slots = s.slots := rfl
@[simp] theorem takeLines_builder (s : State) (l : LineState) : (s.takeLines l).builder = s.builder := rfl
@[simp] theorem takeLines_queue (s : State) (l : LineState) : (s.takeLines l).queue = s.queue := rfl
@[simp] theorem takeLines_staging (s : State) (l : LineState) : (s.takeLines l).staging = s.staging := rfl
@[simp] theorem takeLines_firing (s : State) (l : LineState) : (s.takeLines l).firing = s.firing := rfl
@[simp] theorem takeLines_mapper (s : State) (l : LineState) : (s.takeLines l).mapper = s.mapper := rfl
@[simp] theorem takeLines_head (s : State) (l : LineState) : (s.takeLines l).head = s.head := rfl
@[simp] theorem takeLines_pins (s : State) (l : LineState) : (s.takeLines l).pins = s.pins := rfl
@[simp] theorem takeLines_outs (s : State) (l : LineState) : (s.takeLines l).outs = s.outs := rfl
@[simp] theorem takeLines_free (s : State) (l : LineState) : (s.takeLines l).free = s.free := rfl
@[simp] theorem takeLines_pending (s : State) (l : LineState) : (s.takeLines l).pending = s.pending := rfl

/-! ### `State.freeJob` -/

@[simp] theorem freeJob_ctl (s : State) (x : SlotId) : (s.freeJob x).ctl = s.ctl := rfl
@[simp] theorem freeJob_walker (s : State) (x : SlotId) : (s.freeJob x).walker = s.walker := rfl
@[simp] theorem freeJob_writer (s : State) (x : SlotId) : (s.freeJob x).writer = s.writer := rfl
@[simp] theorem freeJob_port (s : State) (x : SlotId) : (s.freeJob x).port = s.port := rfl
@[simp] theorem freeJob_builder (s : State) (x : SlotId) : (s.freeJob x).builder = s.builder := rfl
@[simp] theorem freeJob_queue (s : State) (x : SlotId) : (s.freeJob x).queue = s.queue := rfl
@[simp] theorem freeJob_staging (s : State) (x : SlotId) : (s.freeJob x).staging = s.staging := rfl
@[simp] theorem freeJob_tracker (s : State) (x : SlotId) : (s.freeJob x).tracker = s.tracker := rfl
@[simp] theorem freeJob_firing (s : State) (x : SlotId) : (s.freeJob x).firing = s.firing := rfl
@[simp] theorem freeJob_mapper (s : State) (x : SlotId) : (s.freeJob x).mapper = s.mapper := rfl
@[simp] theorem freeJob_head (s : State) (x : SlotId) : (s.freeJob x).head = s.head := rfl
@[simp] theorem freeJob_pins (s : State) (x : SlotId) : (s.freeJob x).pins = s.pins := rfl
@[simp] theorem freeJob_outs (s : State) (x : SlotId) : (s.freeJob x).outs = s.outs := rfl
@[simp] theorem freeJob_free (s : State) (x : SlotId) : (s.freeJob x).free = s.free := rfl
@[simp] theorem freeJob_pending (s : State) (x : SlotId) : (s.freeJob x).pending = s.pending := rfl

/-! ### `State.placeJob` -/

@[simp] theorem placeJob_ctl (s : State) (x : SlotId) (j : Job) : (s.placeJob x j).ctl = s.ctl := rfl
@[simp] theorem placeJob_walker (s : State) (x : SlotId) (j : Job) : (s.placeJob x j).walker = s.walker := rfl
@[simp] theorem placeJob_writer (s : State) (x : SlotId) (j : Job) : (s.placeJob x j).writer = s.writer := rfl
@[simp] theorem placeJob_port (s : State) (x : SlotId) (j : Job) : (s.placeJob x j).port = s.port := rfl
@[simp] theorem placeJob_builder (s : State) (x : SlotId) (j : Job) : (s.placeJob x j).builder = s.builder := rfl
@[simp] theorem placeJob_queue (s : State) (x : SlotId) (j : Job) : (s.placeJob x j).queue = s.queue := rfl
@[simp] theorem placeJob_staging (s : State) (x : SlotId) (j : Job) : (s.placeJob x j).staging = s.staging := rfl
@[simp] theorem placeJob_tracker (s : State) (x : SlotId) (j : Job) : (s.placeJob x j).tracker = s.tracker := rfl
@[simp] theorem placeJob_firing (s : State) (x : SlotId) (j : Job) : (s.placeJob x j).firing = s.firing := rfl
@[simp] theorem placeJob_mapper (s : State) (x : SlotId) (j : Job) : (s.placeJob x j).mapper = s.mapper := rfl
@[simp] theorem placeJob_head (s : State) (x : SlotId) (j : Job) : (s.placeJob x j).head = s.head := rfl
@[simp] theorem placeJob_pins (s : State) (x : SlotId) (j : Job) : (s.placeJob x j).pins = s.pins := rfl
@[simp] theorem placeJob_outs (s : State) (x : SlotId) (j : Job) : (s.placeJob x j).outs = s.outs := rfl
@[simp] theorem placeJob_free (s : State) (x : SlotId) (j : Job) : (s.placeJob x j).free = s.free := rfl
@[simp] theorem placeJob_pending (s : State) (x : SlotId) (j : Job) : (s.placeJob x j).pending = s.pending := rfl

/-! ### `State.removeTask` -/

@[simp] theorem removeTask_ctl (s : State) : (s.removeTask).ctl = s.ctl := rfl
@[simp] theorem removeTask_walker (s : State) : (s.removeTask).walker = s.walker := rfl
@[simp] theorem removeTask_port (s : State) : (s.removeTask).port = s.port := rfl
@[simp] theorem removeTask_slots (s : State) : (s.removeTask).slots = s.slots := rfl
@[simp] theorem removeTask_builder (s : State) : (s.removeTask).builder = s.builder := rfl
@[simp] theorem removeTask_queue (s : State) : (s.removeTask).queue = s.queue := rfl
@[simp] theorem removeTask_staging (s : State) : (s.removeTask).staging = s.staging := rfl
@[simp] theorem removeTask_tracker (s : State) : (s.removeTask).tracker = s.tracker := rfl
@[simp] theorem removeTask_firing (s : State) : (s.removeTask).firing = s.firing := rfl
@[simp] theorem removeTask_mapper (s : State) : (s.removeTask).mapper = s.mapper := rfl
@[simp] theorem removeTask_head (s : State) : (s.removeTask).head = s.head := rfl
@[simp] theorem removeTask_pins (s : State) : (s.removeTask).pins = s.pins := rfl
@[simp] theorem removeTask_outs (s : State) : (s.removeTask).outs = s.outs := rfl
@[simp] theorem removeTask_free (s : State) : (s.removeTask).free = s.free := rfl
@[simp] theorem removeTask_pending (s : State) : (s.removeTask).pending = s.pending := rfl

/-! ### `State.takeSwap` -/

@[simp] theorem takeSwap_ctl (s : State) : (s.takeSwap).ctl = s.ctl := rfl
@[simp] theorem takeSwap_walker (s : State) : (s.takeSwap).walker = s.walker := rfl
@[simp] theorem takeSwap_writer (s : State) : (s.takeSwap).writer = s.writer := rfl
@[simp] theorem takeSwap_port (s : State) : (s.takeSwap).port = s.port := rfl
@[simp] theorem takeSwap_slots (s : State) : (s.takeSwap).slots = s.slots := rfl
@[simp] theorem takeSwap_builder (s : State) : (s.takeSwap).builder = s.builder := rfl
@[simp] theorem takeSwap_staging (s : State) : (s.takeSwap).staging = s.staging := rfl
@[simp] theorem takeSwap_tracker (s : State) : (s.takeSwap).tracker = s.tracker := rfl
@[simp] theorem takeSwap_firing (s : State) : (s.takeSwap).firing = s.firing := rfl
@[simp] theorem takeSwap_head (s : State) : (s.takeSwap).head = s.head := rfl
@[simp] theorem takeSwap_pins (s : State) : (s.takeSwap).pins = s.pins := rfl
@[simp] theorem takeSwap_outs (s : State) : (s.takeSwap).outs = s.outs := rfl
@[simp] theorem takeSwap_free (s : State) : (s.takeSwap).free = s.free := rfl
@[simp] theorem takeSwap_pending (s : State) : (s.takeSwap).pending = s.pending := rfl

/-! ### `State.lookOn` -/

@[simp] theorem lookOn_ctl (s : State) (g : LookStage) (k : TxKind) (a : Word) (n : Nat) : (s.lookOn g k a n).ctl = s.ctl := rfl
@[simp] theorem lookOn_writer (s : State) (g : LookStage) (k : TxKind) (a : Word) (n : Nat) : (s.lookOn g k a n).writer = s.writer := rfl
@[simp] theorem lookOn_slots (s : State) (g : LookStage) (k : TxKind) (a : Word) (n : Nat) : (s.lookOn g k a n).slots = s.slots := rfl
@[simp] theorem lookOn_builder (s : State) (g : LookStage) (k : TxKind) (a : Word) (n : Nat) : (s.lookOn g k a n).builder = s.builder := rfl
@[simp] theorem lookOn_queue (s : State) (g : LookStage) (k : TxKind) (a : Word) (n : Nat) : (s.lookOn g k a n).queue = s.queue := rfl
@[simp] theorem lookOn_staging (s : State) (g : LookStage) (k : TxKind) (a : Word) (n : Nat) : (s.lookOn g k a n).staging = s.staging := rfl
@[simp] theorem lookOn_tracker (s : State) (g : LookStage) (k : TxKind) (a : Word) (n : Nat) : (s.lookOn g k a n).tracker = s.tracker := rfl
@[simp] theorem lookOn_firing (s : State) (g : LookStage) (k : TxKind) (a : Word) (n : Nat) : (s.lookOn g k a n).firing = s.firing := rfl
@[simp] theorem lookOn_mapper (s : State) (g : LookStage) (k : TxKind) (a : Word) (n : Nat) : (s.lookOn g k a n).mapper = s.mapper := rfl
@[simp] theorem lookOn_head (s : State) (g : LookStage) (k : TxKind) (a : Word) (n : Nat) : (s.lookOn g k a n).head = s.head := rfl
@[simp] theorem lookOn_pins (s : State) (g : LookStage) (k : TxKind) (a : Word) (n : Nat) : (s.lookOn g k a n).pins = s.pins := rfl
@[simp] theorem lookOn_outs (s : State) (g : LookStage) (k : TxKind) (a : Word) (n : Nat) : (s.lookOn g k a n).outs = s.outs := rfl
@[simp] theorem lookOn_free (s : State) (g : LookStage) (k : TxKind) (a : Word) (n : Nat) : (s.lookOn g k a n).free = s.free := rfl
@[simp] theorem lookOn_pending (s : State) (g : LookStage) (k : TxKind) (a : Word) (n : Nat) : (s.lookOn g k a n).pending = s.pending := rfl

/-! ### `State.readLink` -/

@[simp] theorem readLink_ctl (s : State) : (s.readLink).ctl = s.ctl := rfl
@[simp] theorem readLink_writer (s : State) : (s.readLink).writer = s.writer := rfl
@[simp] theorem readLink_slots (s : State) : (s.readLink).slots = s.slots := rfl
@[simp] theorem readLink_builder (s : State) : (s.readLink).builder = s.builder := rfl
@[simp] theorem readLink_queue (s : State) : (s.readLink).queue = s.queue := rfl
@[simp] theorem readLink_staging (s : State) : (s.readLink).staging = s.staging := rfl
@[simp] theorem readLink_tracker (s : State) : (s.readLink).tracker = s.tracker := rfl
@[simp] theorem readLink_firing (s : State) : (s.readLink).firing = s.firing := rfl
@[simp] theorem readLink_mapper (s : State) : (s.readLink).mapper = s.mapper := rfl
@[simp] theorem readLink_head (s : State) : (s.readLink).head = s.head := rfl
@[simp] theorem readLink_pins (s : State) : (s.readLink).pins = s.pins := rfl
@[simp] theorem readLink_outs (s : State) : (s.readLink).outs = s.outs := rfl
@[simp] theorem readLink_free (s : State) : (s.readLink).free = s.free := rfl
@[simp] theorem readLink_pending (s : State) : (s.readLink).pending = s.pending := rfl

/-! ### `State.beginLook` -/

@[simp] theorem beginLook_ctl (s : State) : (s.beginLook).ctl = s.ctl := rfl
@[simp] theorem beginLook_writer (s : State) : (s.beginLook).writer = s.writer := rfl
@[simp] theorem beginLook_slots (s : State) : (s.beginLook).slots = s.slots := rfl
@[simp] theorem beginLook_builder (s : State) : (s.beginLook).builder = s.builder := rfl
@[simp] theorem beginLook_queue (s : State) : (s.beginLook).queue = s.queue := rfl
@[simp] theorem beginLook_staging (s : State) : (s.beginLook).staging = s.staging := rfl
@[simp] theorem beginLook_tracker (s : State) : (s.beginLook).tracker = s.tracker := rfl
@[simp] theorem beginLook_firing (s : State) : (s.beginLook).firing = s.firing := rfl
@[simp] theorem beginLook_mapper (s : State) : (s.beginLook).mapper = s.mapper := rfl
@[simp] theorem beginLook_head (s : State) : (s.beginLook).head = s.head := rfl
@[simp] theorem beginLook_pins (s : State) : (s.beginLook).pins = s.pins := rfl
@[simp] theorem beginLook_outs (s : State) : (s.beginLook).outs = s.outs := rfl
@[simp] theorem beginLook_free (s : State) : (s.beginLook).free = s.free := rfl
@[simp] theorem beginLook_pending (s : State) : (s.beginLook).pending = s.pending := rfl

/-! ### `State.endLookIdle` -/

@[simp] theorem endLookIdle_ctl (s : State) : (s.endLookIdle).ctl = s.ctl := rfl
@[simp] theorem endLookIdle_writer (s : State) : (s.endLookIdle).writer = s.writer := rfl
@[simp] theorem endLookIdle_port (s : State) : (s.endLookIdle).port = s.port := rfl
@[simp] theorem endLookIdle_slots (s : State) : (s.endLookIdle).slots = s.slots := rfl
@[simp] theorem endLookIdle_builder (s : State) : (s.endLookIdle).builder = s.builder := rfl
@[simp] theorem endLookIdle_queue (s : State) : (s.endLookIdle).queue = s.queue := rfl
@[simp] theorem endLookIdle_staging (s : State) : (s.endLookIdle).staging = s.staging := rfl
@[simp] theorem endLookIdle_tracker (s : State) : (s.endLookIdle).tracker = s.tracker := rfl
@[simp] theorem endLookIdle_firing (s : State) : (s.endLookIdle).firing = s.firing := rfl
@[simp] theorem endLookIdle_mapper (s : State) : (s.endLookIdle).mapper = s.mapper := rfl
@[simp] theorem endLookIdle_head (s : State) : (s.endLookIdle).head = s.head := rfl
@[simp] theorem endLookIdle_pins (s : State) : (s.endLookIdle).pins = s.pins := rfl
@[simp] theorem endLookIdle_outs (s : State) : (s.endLookIdle).outs = s.outs := rfl
@[simp] theorem endLookIdle_free (s : State) : (s.endLookIdle).free = s.free := rfl
@[simp] theorem endLookIdle_pending (s : State) : (s.endLookIdle).pending = s.pending := rfl

/-! ### `State.moveAnchor` -/

@[simp] theorem moveAnchor_ctl (s : State) (r : Word) : (s.moveAnchor r).ctl = s.ctl := rfl
@[simp] theorem moveAnchor_port (s : State) (r : Word) : (s.moveAnchor r).port = s.port := rfl
@[simp] theorem moveAnchor_slots (s : State) (r : Word) : (s.moveAnchor r).slots = s.slots := rfl
@[simp] theorem moveAnchor_builder (s : State) (r : Word) : (s.moveAnchor r).builder = s.builder := rfl
@[simp] theorem moveAnchor_queue (s : State) (r : Word) : (s.moveAnchor r).queue = s.queue := rfl
@[simp] theorem moveAnchor_staging (s : State) (r : Word) : (s.moveAnchor r).staging = s.staging := rfl
@[simp] theorem moveAnchor_tracker (s : State) (r : Word) : (s.moveAnchor r).tracker = s.tracker := rfl
@[simp] theorem moveAnchor_firing (s : State) (r : Word) : (s.moveAnchor r).firing = s.firing := rfl
@[simp] theorem moveAnchor_mapper (s : State) (r : Word) : (s.moveAnchor r).mapper = s.mapper := rfl
@[simp] theorem moveAnchor_head (s : State) (r : Word) : (s.moveAnchor r).head = s.head := rfl
@[simp] theorem moveAnchor_pins (s : State) (r : Word) : (s.moveAnchor r).pins = s.pins := rfl
@[simp] theorem moveAnchor_outs (s : State) (r : Word) : (s.moveAnchor r).outs = s.outs := rfl
@[simp] theorem moveAnchor_free (s : State) (r : Word) : (s.moveAnchor r).free = s.free := rfl
@[simp] theorem moveAnchor_pending (s : State) (r : Word) : (s.moveAnchor r).pending = s.pending := rfl

/-! ### `State.walkOn` -/

@[simp] theorem walkOn_ctl (s : State) (t : BuildTask) : (s.walkOn t).ctl = s.ctl := rfl
@[simp] theorem walkOn_walker (s : State) (t : BuildTask) : (s.walkOn t).walker = s.walker := rfl
@[simp] theorem walkOn_writer (s : State) (t : BuildTask) : (s.walkOn t).writer = s.writer := rfl
@[simp] theorem walkOn_port (s : State) (t : BuildTask) : (s.walkOn t).port = s.port := rfl
@[simp] theorem walkOn_slots (s : State) (t : BuildTask) : (s.walkOn t).slots = s.slots := rfl
@[simp] theorem walkOn_queue (s : State) (t : BuildTask) : (s.walkOn t).queue = s.queue := rfl
@[simp] theorem walkOn_staging (s : State) (t : BuildTask) : (s.walkOn t).staging = s.staging := rfl
@[simp] theorem walkOn_tracker (s : State) (t : BuildTask) : (s.walkOn t).tracker = s.tracker := rfl
@[simp] theorem walkOn_firing (s : State) (t : BuildTask) : (s.walkOn t).firing = s.firing := rfl
@[simp] theorem walkOn_mapper (s : State) (t : BuildTask) : (s.walkOn t).mapper = s.mapper := rfl
@[simp] theorem walkOn_head (s : State) (t : BuildTask) : (s.walkOn t).head = s.head := rfl
@[simp] theorem walkOn_pins (s : State) (t : BuildTask) : (s.walkOn t).pins = s.pins := rfl
@[simp] theorem walkOn_outs (s : State) (t : BuildTask) : (s.walkOn t).outs = s.outs := rfl
@[simp] theorem walkOn_free (s : State) (t : BuildTask) : (s.walkOn t).free = s.free := rfl
@[simp] theorem walkOn_pending (s : State) (t : BuildTask) : (s.walkOn t).pending = s.pending := rfl

/-! ### `State.walkAt` -/

@[simp] theorem walkAt_ctl (s : State) (i : Nat) : (s.walkAt i).ctl = s.ctl := rfl
@[simp] theorem walkAt_walker (s : State) (i : Nat) : (s.walkAt i).walker = s.walker := rfl
@[simp] theorem walkAt_writer (s : State) (i : Nat) : (s.walkAt i).writer = s.writer := rfl
@[simp] theorem walkAt_port (s : State) (i : Nat) : (s.walkAt i).port = s.port := rfl
@[simp] theorem walkAt_slots (s : State) (i : Nat) : (s.walkAt i).slots = s.slots := rfl
@[simp] theorem walkAt_queue (s : State) (i : Nat) : (s.walkAt i).queue = s.queue := rfl
@[simp] theorem walkAt_staging (s : State) (i : Nat) : (s.walkAt i).staging = s.staging := rfl
@[simp] theorem walkAt_tracker (s : State) (i : Nat) : (s.walkAt i).tracker = s.tracker := rfl
@[simp] theorem walkAt_firing (s : State) (i : Nat) : (s.walkAt i).firing = s.firing := rfl
@[simp] theorem walkAt_mapper (s : State) (i : Nat) : (s.walkAt i).mapper = s.mapper := rfl
@[simp] theorem walkAt_head (s : State) (i : Nat) : (s.walkAt i).head = s.head := rfl
@[simp] theorem walkAt_pins (s : State) (i : Nat) : (s.walkAt i).pins = s.pins := rfl
@[simp] theorem walkAt_outs (s : State) (i : Nat) : (s.walkAt i).outs = s.outs := rfl
@[simp] theorem walkAt_free (s : State) (i : Nat) : (s.walkAt i).free = s.free := rfl
@[simp] theorem walkAt_pending (s : State) (i : Nat) : (s.walkAt i).pending = s.pending := rfl

/-! ### `State.walkAtWith` -/

@[simp] theorem walkAtWith_ctl (s : State) (i : Nat) (c : List RepeatContext) : (s.walkAtWith i c).ctl = s.ctl := rfl
@[simp] theorem walkAtWith_walker (s : State) (i : Nat) (c : List RepeatContext) : (s.walkAtWith i c).walker = s.walker := rfl
@[simp] theorem walkAtWith_writer (s : State) (i : Nat) (c : List RepeatContext) : (s.walkAtWith i c).writer = s.writer := rfl
@[simp] theorem walkAtWith_port (s : State) (i : Nat) (c : List RepeatContext) : (s.walkAtWith i c).port = s.port := rfl
@[simp] theorem walkAtWith_slots (s : State) (i : Nat) (c : List RepeatContext) : (s.walkAtWith i c).slots = s.slots := rfl
@[simp] theorem walkAtWith_queue (s : State) (i : Nat) (c : List RepeatContext) : (s.walkAtWith i c).queue = s.queue := rfl
@[simp] theorem walkAtWith_staging (s : State) (i : Nat) (c : List RepeatContext) : (s.walkAtWith i c).staging = s.staging := rfl
@[simp] theorem walkAtWith_tracker (s : State) (i : Nat) (c : List RepeatContext) : (s.walkAtWith i c).tracker = s.tracker := rfl
@[simp] theorem walkAtWith_firing (s : State) (i : Nat) (c : List RepeatContext) : (s.walkAtWith i c).firing = s.firing := rfl
@[simp] theorem walkAtWith_mapper (s : State) (i : Nat) (c : List RepeatContext) : (s.walkAtWith i c).mapper = s.mapper := rfl
@[simp] theorem walkAtWith_head (s : State) (i : Nat) (c : List RepeatContext) : (s.walkAtWith i c).head = s.head := rfl
@[simp] theorem walkAtWith_pins (s : State) (i : Nat) (c : List RepeatContext) : (s.walkAtWith i c).pins = s.pins := rfl
@[simp] theorem walkAtWith_outs (s : State) (i : Nat) (c : List RepeatContext) : (s.walkAtWith i c).outs = s.outs := rfl
@[simp] theorem walkAtWith_free (s : State) (i : Nat) (c : List RepeatContext) : (s.walkAtWith i c).free = s.free := rfl
@[simp] theorem walkAtWith_pending (s : State) (i : Nat) (c : List RepeatContext) : (s.walkAtWith i c).pending = s.pending := rfl

/-! ### `State.beginBuild` -/

@[simp] theorem beginBuild_ctl (s : State) (x : SlotId) (k : BitVec 2) : (s.beginBuild x k).ctl = s.ctl := rfl
@[simp] theorem beginBuild_walker (s : State) (x : SlotId) (k : BitVec 2) : (s.beginBuild x k).walker = s.walker := rfl
@[simp] theorem beginBuild_writer (s : State) (x : SlotId) (k : BitVec 2) : (s.beginBuild x k).writer = s.writer := rfl
@[simp] theorem beginBuild_port (s : State) (x : SlotId) (k : BitVec 2) : (s.beginBuild x k).port = s.port := rfl
@[simp] theorem beginBuild_slots (s : State) (x : SlotId) (k : BitVec 2) : (s.beginBuild x k).slots = s.slots := rfl
@[simp] theorem beginBuild_queue (s : State) (x : SlotId) (k : BitVec 2) : (s.beginBuild x k).queue = s.queue := rfl
@[simp] theorem beginBuild_staging (s : State) (x : SlotId) (k : BitVec 2) : (s.beginBuild x k).staging = s.staging := rfl
@[simp] theorem beginBuild_tracker (s : State) (x : SlotId) (k : BitVec 2) : (s.beginBuild x k).tracker = s.tracker := rfl
@[simp] theorem beginBuild_firing (s : State) (x : SlotId) (k : BitVec 2) : (s.beginBuild x k).firing = s.firing := rfl
@[simp] theorem beginBuild_mapper (s : State) (x : SlotId) (k : BitVec 2) : (s.beginBuild x k).mapper = s.mapper := rfl
@[simp] theorem beginBuild_head (s : State) (x : SlotId) (k : BitVec 2) : (s.beginBuild x k).head = s.head := rfl
@[simp] theorem beginBuild_pins (s : State) (x : SlotId) (k : BitVec 2) : (s.beginBuild x k).pins = s.pins := rfl
@[simp] theorem beginBuild_outs (s : State) (x : SlotId) (k : BitVec 2) : (s.beginBuild x k).outs = s.outs := rfl
@[simp] theorem beginBuild_free (s : State) (x : SlotId) (k : BitVec 2) : (s.beginBuild x k).free = s.free := rfl
@[simp] theorem beginBuild_pending (s : State) (x : SlotId) (k : BitVec 2) : (s.beginBuild x k).pending = s.pending := rfl

/-! ### `State.ceaseLooking` -/

@[simp] theorem ceaseLooking_ctl (s : State) : (s.ceaseLooking).ctl = s.ctl := rfl
@[simp] theorem ceaseLooking_writer (s : State) : (s.ceaseLooking).writer = s.writer := rfl
@[simp] theorem ceaseLooking_slots (s : State) : (s.ceaseLooking).slots = s.slots := rfl
@[simp] theorem ceaseLooking_builder (s : State) : (s.ceaseLooking).builder = s.builder := rfl
@[simp] theorem ceaseLooking_queue (s : State) : (s.ceaseLooking).queue = s.queue := rfl
@[simp] theorem ceaseLooking_staging (s : State) : (s.ceaseLooking).staging = s.staging := rfl
@[simp] theorem ceaseLooking_tracker (s : State) : (s.ceaseLooking).tracker = s.tracker := rfl
@[simp] theorem ceaseLooking_firing (s : State) : (s.ceaseLooking).firing = s.firing := rfl
@[simp] theorem ceaseLooking_mapper (s : State) : (s.ceaseLooking).mapper = s.mapper := rfl
@[simp] theorem ceaseLooking_head (s : State) : (s.ceaseLooking).head = s.head := rfl
@[simp] theorem ceaseLooking_pins (s : State) : (s.ceaseLooking).pins = s.pins := rfl
@[simp] theorem ceaseLooking_outs (s : State) : (s.ceaseLooking).outs = s.outs := rfl
@[simp] theorem ceaseLooking_free (s : State) : (s.ceaseLooking).free = s.free := rfl
@[simp] theorem ceaseLooking_pending (s : State) : (s.ceaseLooking).pending = s.pending := rfl

/-! ### `State.pollExpired` -/

@[simp] theorem pollExpired_ctl (s : State) : (s.pollExpired).ctl = s.ctl := rfl
@[simp] theorem pollExpired_writer (s : State) : (s.pollExpired).writer = s.writer := rfl
@[simp] theorem pollExpired_port (s : State) : (s.pollExpired).port = s.port := rfl
@[simp] theorem pollExpired_slots (s : State) : (s.pollExpired).slots = s.slots := rfl
@[simp] theorem pollExpired_builder (s : State) : (s.pollExpired).builder = s.builder := rfl
@[simp] theorem pollExpired_queue (s : State) : (s.pollExpired).queue = s.queue := rfl
@[simp] theorem pollExpired_staging (s : State) : (s.pollExpired).staging = s.staging := rfl
@[simp] theorem pollExpired_tracker (s : State) : (s.pollExpired).tracker = s.tracker := rfl
@[simp] theorem pollExpired_firing (s : State) : (s.pollExpired).firing = s.firing := rfl
@[simp] theorem pollExpired_mapper (s : State) : (s.pollExpired).mapper = s.mapper := rfl
@[simp] theorem pollExpired_head (s : State) : (s.pollExpired).head = s.head := rfl
@[simp] theorem pollExpired_pins (s : State) : (s.pollExpired).pins = s.pins := rfl
@[simp] theorem pollExpired_outs (s : State) : (s.pollExpired).outs = s.outs := rfl
@[simp] theorem pollExpired_free (s : State) : (s.pollExpired).free = s.free := rfl
@[simp] theorem pollExpired_pending (s : State) : (s.pollExpired).pending = s.pending := rfl

/-! ### `State.writeAttn` -/

@[simp] theorem writeAttn_walker (s : State) (v : Word) : (s.writeAttn v).walker = s.walker := rfl
@[simp] theorem writeAttn_writer (s : State) (v : Word) : (s.writeAttn v).writer = s.writer := rfl
@[simp] theorem writeAttn_port (s : State) (v : Word) : (s.writeAttn v).port = s.port := rfl
@[simp] theorem writeAttn_slots (s : State) (v : Word) : (s.writeAttn v).slots = s.slots := rfl
@[simp] theorem writeAttn_builder (s : State) (v : Word) : (s.writeAttn v).builder = s.builder := rfl
@[simp] theorem writeAttn_queue (s : State) (v : Word) : (s.writeAttn v).queue = s.queue := rfl
@[simp] theorem writeAttn_staging (s : State) (v : Word) : (s.writeAttn v).staging = s.staging := rfl
@[simp] theorem writeAttn_tracker (s : State) (v : Word) : (s.writeAttn v).tracker = s.tracker := rfl
@[simp] theorem writeAttn_firing (s : State) (v : Word) : (s.writeAttn v).firing = s.firing := rfl
@[simp] theorem writeAttn_mapper (s : State) (v : Word) : (s.writeAttn v).mapper = s.mapper := rfl
@[simp] theorem writeAttn_head (s : State) (v : Word) : (s.writeAttn v).head = s.head := rfl
@[simp] theorem writeAttn_pins (s : State) (v : Word) : (s.writeAttn v).pins = s.pins := rfl
@[simp] theorem writeAttn_outs (s : State) (v : Word) : (s.writeAttn v).outs = s.outs := rfl
@[simp] theorem writeAttn_free (s : State) (v : Word) : (s.writeAttn v).free = s.free := rfl
@[simp] theorem writeAttn_pending (s : State) (v : Word) : (s.writeAttn v).pending = s.pending := rfl

/-! ### `State.writeAttnEn` -/

@[simp] theorem writeAttnEn_walker (s : State) (v : Word) : (s.writeAttnEn v).walker = s.walker := rfl
@[simp] theorem writeAttnEn_writer (s : State) (v : Word) : (s.writeAttnEn v).writer = s.writer := rfl
@[simp] theorem writeAttnEn_port (s : State) (v : Word) : (s.writeAttnEn v).port = s.port := rfl
@[simp] theorem writeAttnEn_slots (s : State) (v : Word) : (s.writeAttnEn v).slots = s.slots := rfl
@[simp] theorem writeAttnEn_builder (s : State) (v : Word) : (s.writeAttnEn v).builder = s.builder := rfl
@[simp] theorem writeAttnEn_queue (s : State) (v : Word) : (s.writeAttnEn v).queue = s.queue := rfl
@[simp] theorem writeAttnEn_staging (s : State) (v : Word) : (s.writeAttnEn v).staging = s.staging := rfl
@[simp] theorem writeAttnEn_tracker (s : State) (v : Word) : (s.writeAttnEn v).tracker = s.tracker := rfl
@[simp] theorem writeAttnEn_firing (s : State) (v : Word) : (s.writeAttnEn v).firing = s.firing := rfl
@[simp] theorem writeAttnEn_mapper (s : State) (v : Word) : (s.writeAttnEn v).mapper = s.mapper := rfl
@[simp] theorem writeAttnEn_head (s : State) (v : Word) : (s.writeAttnEn v).head = s.head := rfl
@[simp] theorem writeAttnEn_pins (s : State) (v : Word) : (s.writeAttnEn v).pins = s.pins := rfl
@[simp] theorem writeAttnEn_outs (s : State) (v : Word) : (s.writeAttnEn v).outs = s.outs := rfl
@[simp] theorem writeAttnEn_free (s : State) (v : Word) : (s.writeAttnEn v).free = s.free := rfl
@[simp] theorem writeAttnEn_pending (s : State) (v : Word) : (s.writeAttnEn v).pending = s.pending := rfl

/-! ### `State.refuse` -/

@[simp] theorem refuse_walker (s : State) : (s.refuse).walker = s.walker := rfl
@[simp] theorem refuse_writer (s : State) : (s.refuse).writer = s.writer := rfl
@[simp] theorem refuse_port (s : State) : (s.refuse).port = s.port := rfl
@[simp] theorem refuse_slots (s : State) : (s.refuse).slots = s.slots := rfl
@[simp] theorem refuse_builder (s : State) : (s.refuse).builder = s.builder := rfl
@[simp] theorem refuse_queue (s : State) : (s.refuse).queue = s.queue := rfl
@[simp] theorem refuse_staging (s : State) : (s.refuse).staging = s.staging := rfl
@[simp] theorem refuse_tracker (s : State) : (s.refuse).tracker = s.tracker := rfl
@[simp] theorem refuse_firing (s : State) : (s.refuse).firing = s.firing := rfl
@[simp] theorem refuse_mapper (s : State) : (s.refuse).mapper = s.mapper := rfl
@[simp] theorem refuse_head (s : State) : (s.refuse).head = s.head := rfl
@[simp] theorem refuse_pins (s : State) : (s.refuse).pins = s.pins := rfl
@[simp] theorem refuse_outs (s : State) : (s.refuse).outs = s.outs := rfl
@[simp] theorem refuse_free (s : State) : (s.refuse).free = s.free := rfl
@[simp] theorem refuse_pending (s : State) : (s.refuse).pending = s.pending := rfl

/-! ### `State.accept` -/

@[simp] theorem accept_walker (s : State) : (s.accept).walker = s.walker := rfl
@[simp] theorem accept_writer (s : State) : (s.accept).writer = s.writer := rfl
@[simp] theorem accept_port (s : State) : (s.accept).port = s.port := rfl
@[simp] theorem accept_slots (s : State) : (s.accept).slots = s.slots := rfl
@[simp] theorem accept_builder (s : State) : (s.accept).builder = s.builder := rfl
@[simp] theorem accept_queue (s : State) : (s.accept).queue = s.queue := rfl
@[simp] theorem accept_staging (s : State) : (s.accept).staging = s.staging := rfl
@[simp] theorem accept_tracker (s : State) : (s.accept).tracker = s.tracker := rfl
@[simp] theorem accept_firing (s : State) : (s.accept).firing = s.firing := rfl
@[simp] theorem accept_mapper (s : State) : (s.accept).mapper = s.mapper := rfl
@[simp] theorem accept_head (s : State) : (s.accept).head = s.head := rfl
@[simp] theorem accept_pins (s : State) : (s.accept).pins = s.pins := rfl
@[simp] theorem accept_outs (s : State) : (s.accept).outs = s.outs := rfl
@[simp] theorem accept_free (s : State) : (s.accept).free = s.free := rfl
@[simp] theorem accept_pending (s : State) : (s.accept).pending = s.pending := rfl

/-! ### What the updates write -/

@[simp] theorem raise_attn (s : State) (f : Attention) : (s.raise f).ctl.attn = s.ctl.attn ||| (1#8 <<< f.position) := rfl
@[simp] theorem raise_engine (s : State) (f : Attention) : (s.raise f).ctl.engine = s.ctl.engine := rfl
@[simp] theorem raise_refused (s : State) (f : Attention) : (s.raise f).ctl.refused = s.ctl.refused := rfl
@[simp] theorem raise_attnEn (s : State) (f : Attention) : (s.raise f).ctl.attnEn = s.ctl.attnEn := rfl
@[simp] theorem raise_chainCause (s : State) (f : Attention) : (s.raise f).ctl.chainCause = s.ctl.chainCause := rfl
@[simp] theorem quiet_outs (s : State) : s.quiet.outs = Outputs.none := rfl
@[simp] theorem oweLook_owed (s : State) : s.oweLook.walker.lookOwed = true := rfl
@[simp] theorem oweLook_state (s : State) : s.oweLook.walker.state = s.walker.state := rfl
@[simp] theorem oweLook_stage (s : State) : s.oweLook.walker.stage = s.walker.stage := rfl
@[simp] theorem oweLook_anchor (s : State) : s.oweLook.walker.anchor = s.walker.anchor := rfl
@[simp] theorem printOut_print (s : State) : s.printOut.firing.print = .out := rfl
@[simp] theorem printOut_divider (s : State) : s.printOut.firing.divider = none := rfl
@[simp] theorem printOut_trimIndex (s : State) : s.printOut.firing.trimIndex = s.firing.trimIndex := rfl
@[simp] theorem printOut_pitch (s : State) : s.printOut.firing.pitch = s.firing.pitch := rfl
@[simp] theorem printOut_pitchTrim (s : State) : s.printOut.firing.pitchTrim = s.firing.pitchTrim := rfl
@[simp] theorem addTask_list (s : State) (t : WriteTask) : (s.addTask t).writer.list = s.writer.list ++ [t] := rfl
@[simp] theorem mapTracker_tracker (s : State) (f : Tracker → Tracker) : (s.mapTracker f).tracker = f s.tracker := rfl
@[simp] theorem mapBuilder_builder (s : State) (f : Builder → Builder) : (s.mapBuilder f).builder = f s.builder := rfl
@[simp] theorem mapWalker_walker (s : State) (f : Walker → Walker) : (s.mapWalker f).walker = f s.walker := rfl
@[simp] theorem setRefused_refused (s : State) (b : Bool) : (s.setRefused b).ctl.refused = b := rfl
@[simp] theorem setRefused_engine (s : State) (b : Bool) : (s.setRefused b).ctl.engine = s.ctl.engine := rfl
@[simp] theorem setRefused_attn (s : State) (b : Bool) : (s.setRefused b).ctl.attn = s.ctl.attn := rfl
@[simp] theorem setEngine_engine (s : State) (e : EngineState) : (s.setEngine e).ctl.engine = e := rfl
@[simp] theorem setEngine_refused (s : State) (e : EngineState) : (s.setEngine e).ctl.refused = s.ctl.refused := rfl
@[simp] theorem setEngine_attn (s : State) (e : EngineState) : (s.setEngine e).ctl.attn = s.ctl.attn := rfl
@[simp] theorem setHead_state (s : State) (h : HeadState) : (s.setHead h).head.state = h := rfl
@[simp] theorem onBus_bus (s : State) (b : BusOut) : (s.onBus b).outs.bus = b := rfl

end Sys2Proof.Machine
end

