-- ==== Sys2Proof/Laws/Frames.lean ====
section
/-! SUPPORT. The frame of each shared operation: the parts of the state it leaves alone, whatever the state. -/

namespace Sys2Proof.Machine

@[simp] theorem mapJob_frame (s : State) (x : SlotId) (f : Job → Job) :
    (s.mapJob x f).ctl = s.ctl ∧ (s.mapJob x f).walker = s.walker ∧ (s.mapJob x f).writer = s.writer ∧
    (s.mapJob x f).port = s.port ∧ (s.mapJob x f).builder = s.builder ∧ (s.mapJob x f).queue = s.queue ∧
    (s.mapJob x f).staging = s.staging ∧ (s.mapJob x f).tracker = s.tracker ∧ (s.mapJob x f).firing =
    s.firing ∧ (s.mapJob x f).mapper = s.mapper ∧ (s.mapJob x f).head = s.head ∧ (s.mapJob x f).pins =
    s.pins ∧ (s.mapJob x f).outs = s.outs ∧ (s.mapJob x f).free = s.free ∧ (s.mapJob x f).pending =
    s.pending := by
  dsimp only [State.mapJob]; split_ands <;> (repeat' split) <;> simp

@[simp] theorem mapCounts_frame (s : State) (x : SlotId) (f : Counts → Counts) :
    (s.mapCounts x f).ctl = s.ctl ∧ (s.mapCounts x f).walker = s.walker ∧ (s.mapCounts x f).writer =
    s.writer ∧ (s.mapCounts x f).port = s.port ∧ (s.mapCounts x f).builder = s.builder ∧ (s.mapCounts x
    f).queue = s.queue ∧ (s.mapCounts x f).staging = s.staging ∧ (s.mapCounts x f).tracker = s.tracker ∧
    (s.mapCounts x f).firing = s.firing ∧ (s.mapCounts x f).mapper = s.mapper ∧ (s.mapCounts x f).head =
    s.head ∧ (s.mapCounts x f).pins = s.pins ∧ (s.mapCounts x f).outs = s.outs ∧ (s.mapCounts x f).free =
    s.free ∧ (s.mapCounts x f).pending = s.pending := by
  simp [State.mapCounts]

@[simp] theorem countIn_frame (s : State) (f : Counts → Counts) :
    (s.countIn f).ctl = s.ctl ∧ (s.countIn f).walker = s.walker ∧ (s.countIn f).writer = s.writer ∧
    (s.countIn f).port = s.port ∧ (s.countIn f).builder = s.builder ∧ (s.countIn f).queue = s.queue ∧
    (s.countIn f).staging = s.staging ∧ (s.countIn f).tracker = s.tracker ∧ (s.countIn f).firing = s.firing
    ∧ (s.countIn f).mapper = s.mapper ∧ (s.countIn f).head = s.head ∧ (s.countIn f).pins = s.pins ∧
    (s.countIn f).outs = s.outs ∧ (s.countIn f).free = s.free ∧ (s.countIn f).pending = s.pending := by
  dsimp only [State.countIn]; split_ands <;> (repeat' split) <;> simp

@[simp] theorem discardRows_frame (s : State) (x : SlotId) (n : Nat) :
    (s.discardRows x n).ctl = s.ctl ∧ (s.discardRows x n).walker = s.walker ∧ (s.discardRows x n).writer =
    s.writer ∧ (s.discardRows x n).port = s.port ∧ (s.discardRows x n).builder = s.builder ∧ (s.discardRows
    x n).queue = s.queue ∧ (s.discardRows x n).staging = s.staging ∧ (s.discardRows x n).tracker = s.tracker
    ∧ (s.discardRows x n).firing = s.firing ∧ (s.discardRows x n).mapper = s.mapper ∧ (s.discardRows x
    n).head = s.head ∧ (s.discardRows x n).pins = s.pins ∧ (s.discardRows x n).outs = s.outs ∧
    (s.discardRows x n).free = s.free ∧ (s.discardRows x n).pending = s.pending := by
  simp [State.discardRows]

@[simp] theorem completing_frame (s : State) (x : SlotId) :
    (s.completing x).ctl = s.ctl ∧ (s.completing x).walker = s.walker ∧ (s.completing x).writer = s.writer ∧
    (s.completing x).port = s.port ∧ (s.completing x).builder = s.builder ∧ (s.completing x).queue = s.queue
    ∧ (s.completing x).staging = s.staging ∧ (s.completing x).tracker = s.tracker ∧ (s.completing x).firing
    = s.firing ∧ (s.completing x).mapper = s.mapper ∧ (s.completing x).head = s.head ∧ (s.completing x).pins
    = s.pins ∧ (s.completing x).outs = s.outs ∧ (s.completing x).free = s.free ∧ (s.completing x).pending =
    s.pending := by
  simp [State.completing]

@[simp] theorem purge_frame (s : State) (x : SlotId) :
    (s.purge x).ctl = s.ctl ∧ (s.purge x).walker = s.walker ∧ (s.purge x).writer = s.writer ∧ (s.purge
    x).port = s.port ∧ (s.purge x).builder = s.builder ∧ (s.purge x).tracker = s.tracker ∧ (s.purge
    x).firing = s.firing ∧ (s.purge x).mapper = s.mapper ∧ (s.purge x).head = s.head ∧ (s.purge x).pins =
    s.pins ∧ (s.purge x).outs = s.outs ∧ (s.purge x).free = s.free ∧ (s.purge x).pending = s.pending := by
  simp [State.purge]

@[simp] theorem abandon_frame (s : State) (x : SlotId) :
    (s.abandon x).ctl = s.ctl ∧ (s.abandon x).writer = s.writer ∧ (s.abandon x).queue = s.queue ∧ (s.abandon
    x).tracker = s.tracker ∧ (s.abandon x).firing = s.firing ∧ (s.abandon x).mapper = s.mapper ∧ (s.abandon
    x).head = s.head ∧ (s.abandon x).pins = s.pins ∧ (s.abandon x).outs = s.outs ∧ (s.abandon x).free =
    s.free ∧ (s.abandon x).pending = s.pending := by
  simp [State.abandon]

@[simp] theorem takeFault_frame (s : State) (x : SlotId) (c : FaultCode) (e : Nat) :
    (s.takeFault x c e).ctl = s.ctl ∧ (s.takeFault x c e).writer = s.writer ∧ (s.takeFault x c e).tracker =
    s.tracker ∧ (s.takeFault x c e).mapper = s.mapper ∧ (s.takeFault x c e).head = s.head ∧ (s.takeFault x c
    e).pins = s.pins ∧ (s.takeFault x c e).outs = s.outs ∧ (s.takeFault x c e).free = s.free ∧ (s.takeFault
    x c e).pending = s.pending := by
  dsimp only [State.takeFault]; split_ands <;> (repeat' split) <;> simp

@[simp] theorem faultBuilding_frame (s : State) (c : FaultCode) (e : Nat) :
    (s.faultBuilding c e).ctl = s.ctl ∧ (s.faultBuilding c e).writer = s.writer ∧ (s.faultBuilding c
    e).tracker = s.tracker ∧ (s.faultBuilding c e).mapper = s.mapper ∧ (s.faultBuilding c e).head = s.head ∧
    (s.faultBuilding c e).pins = s.pins ∧ (s.faultBuilding c e).outs = s.outs ∧ (s.faultBuilding c e).free =
    s.free ∧ (s.faultBuilding c e).pending = s.pending := by
  dsimp only [State.faultBuilding]; split_ands <;> (repeat' split) <;> simp

@[simp] theorem faultCounting_frame (s : State) (c : FaultCode) :
    (s.faultCounting c).ctl = s.ctl ∧ (s.faultCounting c).writer = s.writer ∧ (s.faultCounting c).tracker =
    s.tracker ∧ (s.faultCounting c).mapper = s.mapper ∧ (s.faultCounting c).head = s.head ∧ (s.faultCounting
    c).pins = s.pins ∧ (s.faultCounting c).outs = s.outs ∧ (s.faultCounting c).free = s.free ∧
    (s.faultCounting c).pending = s.pending := by
  dsimp only [State.faultCounting]; split_ands <;> (repeat' split) <;> simp

@[simp] theorem addTasks_frame (s : State) (t u : WriteTask) :
    (s.addTasks t u).ctl = s.ctl ∧ (s.addTasks t u).walker = s.walker ∧ (s.addTasks t u).port = s.port ∧
    (s.addTasks t u).slots = s.slots ∧ (s.addTasks t u).builder = s.builder ∧ (s.addTasks t u).queue =
    s.queue ∧ (s.addTasks t u).staging = s.staging ∧ (s.addTasks t u).tracker = s.tracker ∧ (s.addTasks t
    u).firing = s.firing ∧ (s.addTasks t u).mapper = s.mapper ∧ (s.addTasks t u).head = s.head ∧ (s.addTasks
    t u).pins = s.pins ∧ (s.addTasks t u).outs = s.outs ∧ (s.addTasks t u).pending = s.pending := by
  dsimp only [State.addTasks]; split_ands <;> (repeat' split) <;> simp

@[simp] theorem beginCompletion_frame (s : State) (x : SlotId) :
    (s.beginCompletion x).ctl = s.ctl ∧ (s.beginCompletion x).walker = s.walker ∧ (s.beginCompletion x).port
    = s.port ∧ (s.beginCompletion x).builder = s.builder ∧ (s.beginCompletion x).queue = s.queue ∧
    (s.beginCompletion x).staging = s.staging ∧ (s.beginCompletion x).tracker = s.tracker ∧
    (s.beginCompletion x).firing = s.firing ∧ (s.beginCompletion x).mapper = s.mapper ∧ (s.beginCompletion
    x).head = s.head ∧ (s.beginCompletion x).pins = s.pins ∧ (s.beginCompletion x).outs = s.outs ∧
    (s.beginCompletion x).free = s.free ∧ (s.beginCompletion x).pending = s.pending := by
  simp [State.beginCompletion]

@[simp] theorem abortShift_frame (s : State) :
    s.abortShift.ctl = s.ctl ∧ s.abortShift.walker = s.walker ∧ s.abortShift.writer = s.writer ∧
    s.abortShift.port = s.port ∧ s.abortShift.builder = s.builder ∧ s.abortShift.queue = s.queue ∧
    s.abortShift.staging = s.staging ∧ s.abortShift.tracker = s.tracker ∧ s.abortShift.firing = s.firing ∧
    s.abortShift.mapper = s.mapper ∧ s.abortShift.pins = s.pins ∧ s.abortShift.pending = s.pending := by
  dsimp only [State.abortShift]; split_ands <;> (repeat' split) <;> simp

@[simp] theorem startRowShift_frame (s : State) (x : SlotId) (r : Row) :
    (s.startRowShift x r).ctl = s.ctl ∧ (s.startRowShift x r).walker = s.walker ∧ (s.startRowShift x
    r).writer = s.writer ∧ (s.startRowShift x r).port = s.port ∧ (s.startRowShift x r).builder = s.builder ∧
    (s.startRowShift x r).queue = s.queue ∧ (s.startRowShift x r).staging = s.staging ∧ (s.startRowShift x
    r).tracker = s.tracker ∧ (s.startRowShift x r).firing = s.firing ∧ (s.startRowShift x r).mapper =
    s.mapper ∧ (s.startRowShift x r).pins = s.pins ∧ (s.startRowShift x r).pending = s.pending := by
  simp [State.startRowShift]

@[simp] theorem enterReady_frame (s : State) :
    s.enterReady.walker = s.walker ∧ s.enterReady.writer = s.writer ∧ s.enterReady.port = s.port ∧
    s.enterReady.slots = s.slots ∧ s.enterReady.builder = s.builder ∧ s.enterReady.queue = s.queue ∧
    s.enterReady.staging = s.staging ∧ s.enterReady.tracker = s.tracker ∧ s.enterReady.firing = s.firing ∧
    s.enterReady.mapper = s.mapper ∧ s.enterReady.pins = s.pins ∧ s.enterReady.outs = s.outs ∧
    s.enterReady.free = s.free ∧ s.enterReady.pending = s.pending := by
  dsimp only [State.enterReady]; split_ands <;> (repeat' split) <;> simp

@[simp] theorem beginWarmup_frame (s : State) :
    s.beginWarmup.walker = s.walker ∧ s.beginWarmup.writer = s.writer ∧ s.beginWarmup.port = s.port ∧
    s.beginWarmup.slots = s.slots ∧ s.beginWarmup.builder = s.builder ∧ s.beginWarmup.queue = s.queue ∧
    s.beginWarmup.staging = s.staging ∧ s.beginWarmup.tracker = s.tracker ∧ s.beginWarmup.firing = s.firing
    ∧ s.beginWarmup.mapper = s.mapper ∧ s.beginWarmup.pins = s.pins ∧ s.beginWarmup.outs = s.outs ∧
    s.beginWarmup.free = s.free ∧ s.beginWarmup.pending = s.pending := by
  dsimp only [State.beginWarmup]; split_ands <;> (repeat' split) <;> simp

@[simp] theorem powerHead_frame (s : State) :
    s.powerHead.walker = s.walker ∧ s.powerHead.writer = s.writer ∧ s.powerHead.port = s.port ∧
    s.powerHead.slots = s.slots ∧ s.powerHead.builder = s.builder ∧ s.powerHead.queue = s.queue ∧
    s.powerHead.staging = s.staging ∧ s.powerHead.tracker = s.tracker ∧ s.powerHead.firing = s.firing ∧
    s.powerHead.mapper = s.mapper ∧ s.powerHead.pins = s.pins ∧ s.powerHead.outs = s.outs ∧ s.powerHead.free
    = s.free ∧ s.powerHead.pending = s.pending := by
  dsimp only [State.powerHead]; split_ands <;> (repeat' split) <;> simp

@[simp] theorem headOff_frame (s : State) :
    s.headOff.ctl = s.ctl ∧ s.headOff.walker = s.walker ∧ s.headOff.writer = s.writer ∧ s.headOff.port =
    s.port ∧ s.headOff.builder = s.builder ∧ s.headOff.queue = s.queue ∧ s.headOff.staging = s.staging ∧
    s.headOff.tracker = s.tracker ∧ s.headOff.firing = s.firing ∧ s.headOff.mapper = s.mapper ∧
    s.headOff.pins = s.pins ∧ s.headOff.pending = s.pending := by
  simp [State.headOff]

@[simp] theorem startTickleShift_frame (s : State) :
    s.startTickleShift.ctl = s.ctl ∧ s.startTickleShift.walker = s.walker ∧ s.startTickleShift.writer =
    s.writer ∧ s.startTickleShift.port = s.port ∧ s.startTickleShift.slots = s.slots ∧
    s.startTickleShift.builder = s.builder ∧ s.startTickleShift.queue = s.queue ∧ s.startTickleShift.staging
    = s.staging ∧ s.startTickleShift.tracker = s.tracker ∧ s.startTickleShift.firing = s.firing ∧
    s.startTickleShift.mapper = s.mapper ∧ s.startTickleShift.pins = s.pins ∧ s.startTickleShift.outs =
    s.outs ∧ s.startTickleShift.free = s.free ∧ s.startTickleShift.pending = s.pending := by
  dsimp only [State.startTickleShift]; split_ands <;> (repeat' split) <;> simp

@[simp] theorem beginPeriod_frame (s : State) :
    s.beginPeriod.ctl = s.ctl ∧ s.beginPeriod.walker = s.walker ∧ s.beginPeriod.writer = s.writer ∧
    s.beginPeriod.port = s.port ∧ s.beginPeriod.slots = s.slots ∧ s.beginPeriod.builder = s.builder ∧
    s.beginPeriod.queue = s.queue ∧ s.beginPeriod.staging = s.staging ∧ s.beginPeriod.tracker = s.tracker ∧
    s.beginPeriod.firing = s.firing ∧ s.beginPeriod.mapper = s.mapper ∧ s.beginPeriod.pins = s.pins ∧
    s.beginPeriod.outs = s.outs ∧ s.beginPeriod.free = s.free ∧ s.beginPeriod.pending = s.pending := by
  dsimp only [State.beginPeriod]; split_ands <;> (repeat' split) <;> simp

@[simp] theorem tickleOn_frame (s : State) :
    s.tickleOn.ctl = s.ctl ∧ s.tickleOn.walker = s.walker ∧ s.tickleOn.writer = s.writer ∧ s.tickleOn.port =
    s.port ∧ s.tickleOn.slots = s.slots ∧ s.tickleOn.builder = s.builder ∧ s.tickleOn.queue = s.queue ∧
    s.tickleOn.staging = s.staging ∧ s.tickleOn.tracker = s.tracker ∧ s.tickleOn.firing = s.firing ∧
    s.tickleOn.mapper = s.mapper ∧ s.tickleOn.pins = s.pins ∧ s.tickleOn.outs = s.outs ∧ s.tickleOn.free =
    s.free ∧ s.tickleOn.pending = s.pending := by
  simp [State.tickleOn]

@[simp] theorem nextPeriod_frame (s : State) :
    s.nextPeriod.ctl = s.ctl ∧ s.nextPeriod.walker = s.walker ∧ s.nextPeriod.writer = s.writer ∧
    s.nextPeriod.port = s.port ∧ s.nextPeriod.slots = s.slots ∧ s.nextPeriod.builder = s.builder ∧
    s.nextPeriod.queue = s.queue ∧ s.nextPeriod.staging = s.staging ∧ s.nextPeriod.tracker = s.tracker ∧
    s.nextPeriod.firing = s.firing ∧ s.nextPeriod.mapper = s.mapper ∧ s.nextPeriod.pins = s.pins ∧
    s.nextPeriod.outs = s.outs ∧ s.nextPeriod.free = s.free ∧ s.nextPeriod.pending = s.pending := by
  simp [State.nextPeriod]

@[simp] theorem applyHeadSetup_frame (s : State) (p : SetupParams) :
    (s.applyHeadSetup p).ctl = s.ctl ∧ (s.applyHeadSetup p).walker = s.walker ∧ (s.applyHeadSetup p).writer
    = s.writer ∧ (s.applyHeadSetup p).port = s.port ∧ (s.applyHeadSetup p).slots = s.slots ∧
    (s.applyHeadSetup p).builder = s.builder ∧ (s.applyHeadSetup p).queue = s.queue ∧ (s.applyHeadSetup
    p).staging = s.staging ∧ (s.applyHeadSetup p).tracker = s.tracker ∧ (s.applyHeadSetup p).firing =
    s.firing ∧ (s.applyHeadSetup p).mapper = s.mapper ∧ (s.applyHeadSetup p).pins = s.pins ∧
    (s.applyHeadSetup p).outs = s.outs ∧ (s.applyHeadSetup p).free = s.free ∧ (s.applyHeadSetup p).pending =
    s.pending := by
  dsimp only [State.applyHeadSetup]; split_ands <;> (repeat' split) <;> simp

@[simp] theorem loseTrigger_frame (s : State) (f : Counts → Counts) (c : FaultCode) :
    (s.loseTrigger f c).ctl = s.ctl ∧ (s.loseTrigger f c).writer = s.writer ∧ (s.loseTrigger f c).tracker =
    s.tracker ∧ (s.loseTrigger f c).mapper = s.mapper ∧ (s.loseTrigger f c).head = s.head ∧ (s.loseTrigger f
    c).pins = s.pins ∧ (s.loseTrigger f c).outs = s.outs ∧ (s.loseTrigger f c).free = s.free ∧
    (s.loseTrigger f c).pending = s.pending := by
  dsimp only [State.loseTrigger]; split_ands <;> (repeat' split) <;> simp

@[simp] theorem rowTrigger_frame (s : State) :
    s.rowTrigger.ctl = s.ctl ∧ s.rowTrigger.writer = s.writer ∧ s.rowTrigger.tracker = s.tracker ∧
    s.rowTrigger.mapper = s.mapper ∧ s.rowTrigger.pins = s.pins ∧ s.rowTrigger.pending = s.pending := by
  dsimp only [State.rowTrigger]; split_ands <;> (repeat' split) <;> simp

@[simp] theorem dividerExpires_frame (s : State) :
    s.dividerExpires.ctl = s.ctl ∧ s.dividerExpires.writer = s.writer ∧ s.dividerExpires.tracker = s.tracker
    ∧ s.dividerExpires.mapper = s.mapper ∧ s.dividerExpires.pins = s.pins ∧ s.dividerExpires.pending =
    s.pending := by
  dsimp only [State.dividerExpires]; split_ands <;> (repeat' split) <;> simp

@[simp] theorem acceptProduct_frame (s : State) :
    s.acceptProduct.ctl = s.ctl ∧ s.acceptProduct.walker = s.walker ∧ s.acceptProduct.writer = s.writer ∧
    s.acceptProduct.port = s.port ∧ s.acceptProduct.builder = s.builder ∧ s.acceptProduct.staging =
    s.staging ∧ s.acceptProduct.tracker = s.tracker ∧ s.acceptProduct.mapper = s.mapper ∧
    s.acceptProduct.head = s.head ∧ s.acceptProduct.pins = s.pins ∧ s.acceptProduct.outs = s.outs ∧
    s.acceptProduct.free = s.free ∧ s.acceptProduct.pending = s.pending := by
  simp [State.acceptProduct]

@[simp] theorem productStart_frame (s : State) :
    s.productStart.ctl = s.ctl ∧ s.productStart.walker = s.walker ∧ s.productStart.writer = s.writer ∧
    s.productStart.port = s.port ∧ s.productStart.builder = s.builder ∧ s.productStart.staging = s.staging ∧
    s.productStart.tracker = s.tracker ∧ s.productStart.mapper = s.mapper ∧ s.productStart.head = s.head ∧
    s.productStart.pins = s.pins ∧ s.productStart.outs = s.outs ∧ s.productStart.free = s.free ∧
    s.productStart.pending = s.pending := by
  dsimp only [State.productStart]; split_ands <;> (repeat' split) <;> simp

@[simp] theorem fireStep_frame (s : State) (b : Bool) :
    (s.fireStep b).ctl = s.ctl ∧ (s.fireStep b).walker = s.walker ∧ (s.fireStep b).writer = s.writer ∧
    (s.fireStep b).port = s.port ∧ (s.fireStep b).builder = s.builder ∧ (s.fireStep b).staging = s.staging ∧
    (s.fireStep b).tracker = s.tracker ∧ (s.fireStep b).mapper = s.mapper ∧ (s.fireStep b).head = s.head ∧
    (s.fireStep b).pins = s.pins ∧ (s.fireStep b).outs = s.outs ∧ (s.fireStep b).free = s.free ∧ (s.fireStep
    b).pending = s.pending := by
  dsimp only [State.fireStep]; split_ands <;> (repeat' split) <;> simp

@[simp] theorem webStep_frame (s : State) :
    s.webStep.walker = s.walker ∧ s.webStep.writer = s.writer ∧ s.webStep.port = s.port ∧ s.webStep.slots =
    s.slots ∧ s.webStep.builder = s.builder ∧ s.webStep.queue = s.queue ∧ s.webStep.staging = s.staging ∧
    s.webStep.firing = s.firing ∧ s.webStep.mapper = s.mapper ∧ s.webStep.head = s.head ∧ s.webStep.pins =
    s.pins ∧ s.webStep.outs = s.outs ∧ s.webStep.free = s.free ∧ s.webStep.pending = s.pending := by
  dsimp only [State.webStep]; split_ands <;> (repeat' split) <;> simp

@[simp] theorem widthStep_frame (s : State) :
    s.widthStep.ctl = s.ctl ∧ s.widthStep.walker = s.walker ∧ s.widthStep.writer = s.writer ∧
    s.widthStep.port = s.port ∧ s.widthStep.builder = s.builder ∧ s.widthStep.queue = s.queue ∧
    s.widthStep.staging = s.staging ∧ s.widthStep.firing = s.firing ∧ s.widthStep.mapper = s.mapper ∧
    s.widthStep.head = s.head ∧ s.widthStep.pins = s.pins ∧ s.widthStep.outs = s.outs ∧ s.widthStep.free =
    s.free ∧ s.widthStep.pending = s.pending := by
  dsimp only [State.widthStep]; split_ands <;> (repeat' split) <;> simp

@[simp] theorem dueStep_frame (s : State) :
    s.dueStep.ctl = s.ctl ∧ s.dueStep.walker = s.walker ∧ s.dueStep.writer = s.writer ∧ s.dueStep.port =
    s.port ∧ s.dueStep.slots = s.slots ∧ s.dueStep.builder = s.builder ∧ s.dueStep.queue = s.queue ∧
    s.dueStep.staging = s.staging ∧ s.dueStep.firing = s.firing ∧ s.dueStep.mapper = s.mapper ∧
    s.dueStep.head = s.head ∧ s.dueStep.pins = s.pins ∧ s.dueStep.outs = s.outs ∧ s.dueStep.free = s.free ∧
    s.dueStep.pending = s.pending := by
  dsimp only [State.dueStep]; split_ands <;> (repeat' split) <;> simp

@[simp] theorem effectiveStep_frame (s : State) :
    s.effectiveStep.walker = s.walker ∧ s.effectiveStep.writer = s.writer ∧ s.effectiveStep.port = s.port ∧
    s.effectiveStep.builder = s.builder ∧ s.effectiveStep.staging = s.staging ∧ s.effectiveStep.mapper =
    s.mapper ∧ s.effectiveStep.head = s.head ∧ s.effectiveStep.pins = s.pins ∧ s.effectiveStep.outs = s.outs
    ∧ s.effectiveStep.free = s.free ∧ s.effectiveStep.pending = s.pending := by
  simp [State.effectiveStep]

@[simp] theorem reverseLimitEvent_frame (s : State) :
    s.reverseLimitEvent.ctl = s.ctl ∧ s.reverseLimitEvent.writer = s.writer ∧ s.reverseLimitEvent.mapper =
    s.mapper ∧ s.reverseLimitEvent.head = s.head ∧ s.reverseLimitEvent.pins = s.pins ∧
    s.reverseLimitEvent.outs = s.outs ∧ s.reverseLimitEvent.free = s.free ∧ s.reverseLimitEvent.pending =
    s.pending := by
  dsimp only [State.reverseLimitEvent]; split_ands <;> (repeat' split) <;> simp

@[simp] theorem judgeMark_frame (s : State) (l : Word) (w : Nat) (c : MarkSettings) :
    (s.judgeMark l w c).walker = s.walker ∧ (s.judgeMark l w c).writer = s.writer ∧ (s.judgeMark l w c).port
    = s.port ∧ (s.judgeMark l w c).builder = s.builder ∧ (s.judgeMark l w c).queue = s.queue ∧ (s.judgeMark
    l w c).staging = s.staging ∧ (s.judgeMark l w c).firing = s.firing ∧ (s.judgeMark l w c).mapper =
    s.mapper ∧ (s.judgeMark l w c).head = s.head ∧ (s.judgeMark l w c).pins = s.pins ∧ (s.judgeMark l w
    c).outs = s.outs ∧ (s.judgeMark l w c).free = s.free ∧ (s.judgeMark l w c).pending = s.pending := by
  dsimp only [State.judgeMark]; split_ands <;> (repeat' split) <;> simp

@[simp] theorem inactiveEdge_frame (s : State) :
    s.inactiveEdge.walker = s.walker ∧ s.inactiveEdge.writer = s.writer ∧ s.inactiveEdge.port = s.port ∧
    s.inactiveEdge.builder = s.builder ∧ s.inactiveEdge.queue = s.queue ∧ s.inactiveEdge.staging = s.staging
    ∧ s.inactiveEdge.firing = s.firing ∧ s.inactiveEdge.mapper = s.mapper ∧ s.inactiveEdge.head = s.head ∧
    s.inactiveEdge.pins = s.pins ∧ s.inactiveEdge.outs = s.outs ∧ s.inactiveEdge.free = s.free ∧
    s.inactiveEdge.pending = s.pending := by
  dsimp only [State.inactiveEdge]; split_ands <;> (repeat' split) <;> simp

@[simp] theorem stillExpired_frame (s : State) :
    s.stillExpired.walker = s.walker ∧ s.stillExpired.writer = s.writer ∧ s.stillExpired.port = s.port ∧
    s.stillExpired.slots = s.slots ∧ s.stillExpired.builder = s.builder ∧ s.stillExpired.queue = s.queue ∧
    s.stillExpired.staging = s.staging ∧ s.stillExpired.firing = s.firing ∧ s.stillExpired.mapper = s.mapper
    ∧ s.stillExpired.head = s.head ∧ s.stillExpired.pins = s.pins ∧ s.stillExpired.outs = s.outs ∧
    s.stillExpired.free = s.free ∧ s.stillExpired.pending = s.pending := by
  simp [State.stillExpired]

@[simp] theorem applyParams_frame (s : State) (p : SetupParams) (m : Option (List NozzleState)) :
    (s.applyParams p m).ctl = s.ctl ∧ (s.applyParams p m).writer = s.writer ∧ (s.applyParams p m).port =
    s.port ∧ (s.applyParams p m).slots = s.slots ∧ (s.applyParams p m).builder = s.builder ∧ (s.applyParams
    p m).queue = s.queue ∧ (s.applyParams p m).pins = s.pins ∧ (s.applyParams p m).outs = s.outs ∧
    (s.applyParams p m).free = s.free ∧ (s.applyParams p m).pending = s.pending := by
  dsimp only [State.applyParams]; split_ands <;> simp

@[simp] theorem applyStaged_frame (s : State) :
    s.applyStaged.ctl = s.ctl ∧ s.applyStaged.writer = s.writer ∧ s.applyStaged.port = s.port ∧
    s.applyStaged.slots = s.slots ∧ s.applyStaged.builder = s.builder ∧ s.applyStaged.queue = s.queue ∧
    s.applyStaged.pins = s.pins ∧ s.applyStaged.outs = s.outs ∧ s.applyStaged.free = s.free ∧
    s.applyStaged.pending = s.pending := by
  dsimp only [State.applyStaged]; split_ands <;> (repeat' split) <;> simp

@[simp] theorem requestRead_frame (s : State) (k : TxKind) (a : Word) (n : Nat) :
    (s.requestRead k a n).ctl = s.ctl ∧ (s.requestRead k a n).walker = s.walker ∧ (s.requestRead k a
    n).writer = s.writer ∧ (s.requestRead k a n).slots = s.slots ∧ (s.requestRead k a n).queue = s.queue ∧
    (s.requestRead k a n).staging = s.staging ∧ (s.requestRead k a n).tracker = s.tracker ∧ (s.requestRead k
    a n).firing = s.firing ∧ (s.requestRead k a n).mapper = s.mapper ∧ (s.requestRead k a n).head = s.head ∧
    (s.requestRead k a n).pins = s.pins ∧ (s.requestRead k a n).outs = s.outs ∧ (s.requestRead k a n).free =
    s.free ∧ (s.requestRead k a n).pending = s.pending := by
  dsimp only [State.requestRead]; split_ands <;> (repeat' split) <;> simp

@[simp] theorem requestEntry_frame (s : State) (i : Nat) :
    (s.requestEntry i).ctl = s.ctl ∧ (s.requestEntry i).walker = s.walker ∧ (s.requestEntry i).writer =
    s.writer ∧ (s.requestEntry i).slots = s.slots ∧ (s.requestEntry i).queue = s.queue ∧ (s.requestEntry
    i).staging = s.staging ∧ (s.requestEntry i).tracker = s.tracker ∧ (s.requestEntry i).firing = s.firing ∧
    (s.requestEntry i).mapper = s.mapper ∧ (s.requestEntry i).head = s.head ∧ (s.requestEntry i).pins =
    s.pins ∧ (s.requestEntry i).outs = s.outs ∧ (s.requestEntry i).free = s.free ∧ (s.requestEntry
    i).pending = s.pending := by
  simp [State.requestEntry]

@[simp] theorem endBuilding_frame (s : State) :
    s.endBuilding.ctl = s.ctl ∧ s.endBuilding.writer = s.writer ∧ s.endBuilding.port = s.port ∧
    s.endBuilding.queue = s.queue ∧ s.endBuilding.staging = s.staging ∧ s.endBuilding.tracker = s.tracker ∧
    s.endBuilding.firing = s.firing ∧ s.endBuilding.mapper = s.mapper ∧ s.endBuilding.head = s.head ∧
    s.endBuilding.pins = s.pins ∧ s.endBuilding.outs = s.outs ∧ s.endBuilding.free = s.free ∧
    s.endBuilding.pending = s.pending := by
  dsimp only [State.endBuilding]; split_ands <;> (repeat' split) <;> simp

@[simp] theorem entered_frame (s : State) (t : BuildTask) :
    (s.entered t).ctl = s.ctl ∧ (s.entered t).writer = s.writer ∧ (s.entered t).port = s.port ∧ (s.entered
    t).queue = s.queue ∧ (s.entered t).staging = s.staging ∧ (s.entered t).tracker = s.tracker ∧ (s.entered
    t).firing = s.firing ∧ (s.entered t).mapper = s.mapper ∧ (s.entered t).head = s.head ∧ (s.entered
    t).pins = s.pins ∧ (s.entered t).outs = s.outs ∧ (s.entered t).free = s.free ∧ (s.entered t).pending =
    s.pending := by
  dsimp only [State.entered]; split_ands <;> (repeat' split) <;> simp

@[simp] theorem countEmitted_frame (s : State) (it : Item) :
    (s.countEmitted it).ctl = s.ctl ∧ (s.countEmitted it).walker = s.walker ∧ (s.countEmitted it).writer =
    s.writer ∧ (s.countEmitted it).port = s.port ∧ (s.countEmitted it).builder = s.builder ∧ (s.countEmitted
    it).queue = s.queue ∧ (s.countEmitted it).staging = s.staging ∧ (s.countEmitted it).tracker = s.tracker
    ∧ (s.countEmitted it).firing = s.firing ∧ (s.countEmitted it).mapper = s.mapper ∧ (s.countEmitted
    it).head = s.head ∧ (s.countEmitted it).pins = s.pins ∧ (s.countEmitted it).outs = s.outs ∧
    (s.countEmitted it).free = s.free ∧ (s.countEmitted it).pending = s.pending := by
  dsimp only [State.countEmitted]; split_ands <;> (repeat' split) <;> simp

@[simp] theorem enqueue_frame (s : State) (it : Item) :
    (s.enqueue it).ctl = s.ctl ∧ (s.enqueue it).walker = s.walker ∧ (s.enqueue it).writer = s.writer ∧
    (s.enqueue it).port = s.port ∧ (s.enqueue it).staging = s.staging ∧ (s.enqueue it).tracker = s.tracker ∧
    (s.enqueue it).firing = s.firing ∧ (s.enqueue it).mapper = s.mapper ∧ (s.enqueue it).head = s.head ∧
    (s.enqueue it).pins = s.pins ∧ (s.enqueue it).outs = s.outs ∧ (s.enqueue it).free = s.free ∧ (s.enqueue
    it).pending = s.pending := by
  dsimp only [State.enqueue]; split_ands <;> simp

@[simp] theorem emit_frame (s : State) (it : Item) :
    (s.emit it).ctl = s.ctl ∧ (s.emit it).writer = s.writer ∧ (s.emit it).port = s.port ∧ (s.emit
    it).staging = s.staging ∧ (s.emit it).tracker = s.tracker ∧ (s.emit it).firing = s.firing ∧ (s.emit
    it).mapper = s.mapper ∧ (s.emit it).head = s.head ∧ (s.emit it).pins = s.pins ∧ (s.emit it).outs =
    s.outs ∧ (s.emit it).free = s.free ∧ (s.emit it).pending = s.pending := by
  dsimp only [State.emit]; split_ands <;> (repeat' split) <;> simp

@[simp] theorem endWalk_frame (s : State) (i : Nat) :
    (s.endWalk i).ctl = s.ctl ∧ (s.endWalk i).writer = s.writer ∧ (s.endWalk i).tracker = s.tracker ∧
    (s.endWalk i).mapper = s.mapper ∧ (s.endWalk i).head = s.head ∧ (s.endWalk i).pins = s.pins ∧ (s.endWalk
    i).outs = s.outs ∧ (s.endWalk i).free = s.free ∧ (s.endWalk i).pending = s.pending := by
  dsimp only [State.endWalk]; split_ands <;> (repeat' split) <;> simp

@[simp] theorem startTable_frame (s : State) (a : Word) :
    (s.startTable a).ctl = s.ctl ∧ (s.startTable a).walker = s.walker ∧ (s.startTable a).writer = s.writer ∧
    (s.startTable a).slots = s.slots ∧ (s.startTable a).queue = s.queue ∧ (s.startTable a).staging =
    s.staging ∧ (s.startTable a).tracker = s.tracker ∧ (s.startTable a).firing = s.firing ∧ (s.startTable
    a).mapper = s.mapper ∧ (s.startTable a).head = s.head ∧ (s.startTable a).pins = s.pins ∧ (s.startTable
    a).outs = s.outs ∧ (s.startTable a).free = s.free ∧ (s.startTable a).pending = s.pending := by
  dsimp only [State.startTable]; split_ands <;> (repeat' split) <;> simp

@[simp] theorem startSetupBlock_frame (s : State) :
    s.startSetupBlock.ctl = s.ctl ∧ s.startSetupBlock.walker = s.walker ∧ s.startSetupBlock.writer =
    s.writer ∧ s.startSetupBlock.slots = s.slots ∧ s.startSetupBlock.queue = s.queue ∧
    s.startSetupBlock.staging = s.staging ∧ s.startSetupBlock.tracker = s.tracker ∧ s.startSetupBlock.firing
    = s.firing ∧ s.startSetupBlock.mapper = s.mapper ∧ s.startSetupBlock.head = s.head ∧
    s.startSetupBlock.pins = s.pins ∧ s.startSetupBlock.outs = s.outs ∧ s.startSetupBlock.free = s.free ∧
    s.startSetupBlock.pending = s.pending := by
  dsimp only [State.startSetupBlock]; split_ands <;> (repeat' split) <;> simp

@[simp] theorem actOn_frame (s : State) (x : SlotId) (t : BuildTask) :
    (s.actOn x t).ctl = s.ctl ∧ (s.actOn x t).writer = s.writer ∧ (s.actOn x t).tracker = s.tracker ∧
    (s.actOn x t).mapper = s.mapper ∧ (s.actOn x t).head = s.head ∧ (s.actOn x t).pins = s.pins ∧ (s.actOn x
    t).outs = s.outs ∧ (s.actOn x t).free = s.free ∧ (s.actOn x t).pending = s.pending := by
  dsimp only [State.actOn]; split_ands <;> (repeat' split) <;> simp

@[simp] theorem illegalEntry_frame (s : State) (i : Nat) :
    (s.illegalEntry i).ctl = s.ctl ∧ (s.illegalEntry i).writer = s.writer ∧ (s.illegalEntry i).tracker =
    s.tracker ∧ (s.illegalEntry i).mapper = s.mapper ∧ (s.illegalEntry i).head = s.head ∧ (s.illegalEntry
    i).pins = s.pins ∧ (s.illegalEntry i).outs = s.outs ∧ (s.illegalEntry i).free = s.free ∧ (s.illegalEntry
    i).pending = s.pending := by
  simp [State.illegalEntry]

@[simp] theorem startImage_frame (s : State) (e : Entry) :
    (s.startImage e).ctl = s.ctl ∧ (s.startImage e).writer = s.writer ∧ (s.startImage e).tracker = s.tracker
    ∧ (s.startImage e).mapper = s.mapper ∧ (s.startImage e).head = s.head ∧ (s.startImage e).pins = s.pins ∧
    (s.startImage e).outs = s.outs ∧ (s.startImage e).free = s.free ∧ (s.startImage e).pending = s.pending := by
  dsimp only [State.startImage]; split_ands <;> (repeat' split) <;> simp

@[simp] theorem walkImage_frame (s : State) (e : Entry) (b : Bool) :
    (s.walkImage e b).ctl = s.ctl ∧ (s.walkImage e b).writer = s.writer ∧ (s.walkImage e b).tracker =
    s.tracker ∧ (s.walkImage e b).mapper = s.mapper ∧ (s.walkImage e b).head = s.head ∧ (s.walkImage e
    b).pins = s.pins ∧ (s.walkImage e b).outs = s.outs ∧ (s.walkImage e b).free = s.free ∧ (s.walkImage e
    b).pending = s.pending := by
  dsimp only [State.walkImage]; split_ands <;> (repeat' split) <;> simp

@[simp] theorem walkPair_frame (s : State) (e g : Entry) (b : Bool) :
    (s.walkPair e g b).ctl = s.ctl ∧ (s.walkPair e g b).writer = s.writer ∧ (s.walkPair e g b).tracker =
    s.tracker ∧ (s.walkPair e g b).mapper = s.mapper ∧ (s.walkPair e g b).head = s.head ∧ (s.walkPair e g
    b).pins = s.pins ∧ (s.walkPair e g b).outs = s.outs ∧ (s.walkPair e g b).free = s.free ∧ (s.walkPair e g
    b).pending = s.pending := by
  dsimp only [State.walkPair]; split_ands <;> (repeat' split) <;> simp

@[simp] theorem walkBlank_frame (s : State) (e : Entry) (b : Bool) :
    (s.walkBlank e b).ctl = s.ctl ∧ (s.walkBlank e b).writer = s.writer ∧ (s.walkBlank e b).tracker =
    s.tracker ∧ (s.walkBlank e b).mapper = s.mapper ∧ (s.walkBlank e b).head = s.head ∧ (s.walkBlank e
    b).pins = s.pins ∧ (s.walkBlank e b).outs = s.outs ∧ (s.walkBlank e b).free = s.free ∧ (s.walkBlank e
    b).pending = s.pending := by
  dsimp only [State.walkBlank]; split_ands <;> (repeat' split) <;> simp

@[simp] theorem walkWaitMark_frame (s : State) (e : Entry) (b : Bool) :
    (s.walkWaitMark e b).ctl = s.ctl ∧ (s.walkWaitMark e b).writer = s.writer ∧ (s.walkWaitMark e b).tracker
    = s.tracker ∧ (s.walkWaitMark e b).mapper = s.mapper ∧ (s.walkWaitMark e b).head = s.head ∧
    (s.walkWaitMark e b).pins = s.pins ∧ (s.walkWaitMark e b).outs = s.outs ∧ (s.walkWaitMark e b).free =
    s.free ∧ (s.walkWaitMark e b).pending = s.pending := by
  dsimp only [State.walkWaitMark]; split_ands <;> (repeat' split) <;> simp

@[simp] theorem walkTable_frame (s : State) (e : Entry) (b : Bool) :
    (s.walkTable e b).ctl = s.ctl ∧ (s.walkTable e b).writer = s.writer ∧ (s.walkTable e b).tracker =
    s.tracker ∧ (s.walkTable e b).mapper = s.mapper ∧ (s.walkTable e b).head = s.head ∧ (s.walkTable e
    b).pins = s.pins ∧ (s.walkTable e b).outs = s.outs ∧ (s.walkTable e b).free = s.free ∧ (s.walkTable e
    b).pending = s.pending := by
  dsimp only [State.walkTable]; split_ands <;> (repeat' split) <;> simp

@[simp] theorem walkOpen_frame (s : State) (e : Entry) :
    (s.walkOpen e).ctl = s.ctl ∧ (s.walkOpen e).writer = s.writer ∧ (s.walkOpen e).tracker = s.tracker ∧
    (s.walkOpen e).mapper = s.mapper ∧ (s.walkOpen e).head = s.head ∧ (s.walkOpen e).pins = s.pins ∧
    (s.walkOpen e).outs = s.outs ∧ (s.walkOpen e).free = s.free ∧ (s.walkOpen e).pending = s.pending := by
  dsimp only [State.walkOpen]; split_ands <;> (repeat' split) <;> simp

@[simp] theorem walkOpened_frame (s : State) (e c : Entry) :
    (s.walkOpened e c).ctl = s.ctl ∧ (s.walkOpened e c).writer = s.writer ∧ (s.walkOpened e c).tracker =
    s.tracker ∧ (s.walkOpened e c).mapper = s.mapper ∧ (s.walkOpened e c).head = s.head ∧ (s.walkOpened e
    c).pins = s.pins ∧ (s.walkOpened e c).outs = s.outs ∧ (s.walkOpened e c).free = s.free ∧ (s.walkOpened e
    c).pending = s.pending := by
  dsimp only [State.walkOpened]; split_ands <;> (repeat' split) <;> simp

@[simp] theorem countPass_frame (s : State) (c : List RepeatContext) :
    (s.countPass c).ctl = s.ctl ∧ (s.countPass c).walker = s.walker ∧ (s.countPass c).writer = s.writer ∧
    (s.countPass c).port = s.port ∧ (s.countPass c).builder = s.builder ∧ (s.countPass c).queue = s.queue ∧
    (s.countPass c).staging = s.staging ∧ (s.countPass c).tracker = s.tracker ∧ (s.countPass c).firing =
    s.firing ∧ (s.countPass c).mapper = s.mapper ∧ (s.countPass c).head = s.head ∧ (s.countPass c).pins =
    s.pins ∧ (s.countPass c).outs = s.outs ∧ (s.countPass c).free = s.free ∧ (s.countPass c).pending =
    s.pending := by
  dsimp only [State.countPass]; split_ands <;> (repeat' split) <;> simp

@[simp] theorem walkClose_frame (s : State) (e : Entry) :
    (s.walkClose e).ctl = s.ctl ∧ (s.walkClose e).writer = s.writer ∧ (s.walkClose e).tracker = s.tracker ∧
    (s.walkClose e).mapper = s.mapper ∧ (s.walkClose e).head = s.head ∧ (s.walkClose e).pins = s.pins ∧
    (s.walkClose e).outs = s.outs ∧ (s.walkClose e).free = s.free ∧ (s.walkClose e).pending = s.pending := by
  dsimp only [State.walkClose]; split_ands <;> (repeat' split) <;> simp

@[simp] theorem walkExit_frame (s : State) (e : Entry) (b : Bool) :
    (s.walkExit e b).ctl = s.ctl ∧ (s.walkExit e b).writer = s.writer ∧ (s.walkExit e b).tracker = s.tracker
    ∧ (s.walkExit e b).mapper = s.mapper ∧ (s.walkExit e b).head = s.head ∧ (s.walkExit e b).pins = s.pins ∧
    (s.walkExit e b).outs = s.outs ∧ (s.walkExit e b).free = s.free ∧ (s.walkExit e b).pending = s.pending := by
  dsimp only [State.walkExit]; split_ands <;> (repeat' split) <;> simp

@[simp] theorem walkEnd_frame (s : State) (e : Entry) (b : Bool) :
    (s.walkEnd e b).ctl = s.ctl ∧ (s.walkEnd e b).writer = s.writer ∧ (s.walkEnd e b).tracker = s.tracker ∧
    (s.walkEnd e b).mapper = s.mapper ∧ (s.walkEnd e b).head = s.head ∧ (s.walkEnd e b).pins = s.pins ∧
    (s.walkEnd e b).outs = s.outs ∧ (s.walkEnd e b).free = s.free ∧ (s.walkEnd e b).pending = s.pending := by
  dsimp only [State.walkEnd]; split_ands <;> (repeat' split) <;> simp

@[simp] theorem walkEntry_frame (s : State) (e : Entry) (b : Bool) :
    (s.walkEntry e b).ctl = s.ctl ∧ (s.walkEntry e b).writer = s.writer ∧ (s.walkEntry e b).tracker =
    s.tracker ∧ (s.walkEntry e b).mapper = s.mapper ∧ (s.walkEntry e b).head = s.head ∧ (s.walkEntry e
    b).pins = s.pins ∧ (s.walkEntry e b).outs = s.outs ∧ (s.walkEntry e b).free = s.free ∧ (s.walkEntry e
    b).pending = s.pending := by
  dsimp only [State.walkEntry]; split_ands <;> (repeat' split) <;> simp

@[simp] theorem fetchError_frame (s : State) (i : Nat) :
    (s.fetchError i).ctl = s.ctl ∧ (s.fetchError i).writer = s.writer ∧ (s.fetchError i).tracker = s.tracker
    ∧ (s.fetchError i).mapper = s.mapper ∧ (s.fetchError i).head = s.head ∧ (s.fetchError i).pins = s.pins ∧
    (s.fetchError i).outs = s.outs ∧ (s.fetchError i).free = s.free ∧ (s.fetchError i).pending = s.pending := by
  simp [State.fetchError]

@[simp] theorem entryRead_frame (s : State) (r : ReadResult) (b : Bool) :
    (s.entryRead r b).ctl = s.ctl ∧ (s.entryRead r b).writer = s.writer ∧ (s.entryRead r b).tracker =
    s.tracker ∧ (s.entryRead r b).mapper = s.mapper ∧ (s.entryRead r b).head = s.head ∧ (s.entryRead r
    b).pins = s.pins ∧ (s.entryRead r b).outs = s.outs ∧ (s.entryRead r b).free = s.free ∧ (s.entryRead r
    b).pending = s.pending := by
  dsimp only [State.entryRead]; split_ands <;> (repeat' split) <;> simp

@[simp] theorem emitRow_frame (s : State) (d : List Dot) :
    (s.emitRow d).ctl = s.ctl ∧ (s.emitRow d).writer = s.writer ∧ (s.emitRow d).tracker = s.tracker ∧
    (s.emitRow d).mapper = s.mapper ∧ (s.emitRow d).head = s.head ∧ (s.emitRow d).pins = s.pins ∧ (s.emitRow
    d).outs = s.outs ∧ (s.emitRow d).free = s.free ∧ (s.emitRow d).pending = s.pending := by
  dsimp only [State.emitRow]; split_ands <;> (repeat' split) <;> simp

@[simp] theorem rowRead_frame (s : State) (r : ReadResult) :
    (s.rowRead r).ctl = s.ctl ∧ (s.rowRead r).writer = s.writer ∧ (s.rowRead r).tracker = s.tracker ∧
    (s.rowRead r).mapper = s.mapper ∧ (s.rowRead r).head = s.head ∧ (s.rowRead r).pins = s.pins ∧ (s.rowRead
    r).outs = s.outs ∧ (s.rowRead r).free = s.free ∧ (s.rowRead r).pending = s.pending := by
  dsimp only [State.rowRead]; split_ands <;> (repeat' split) <;> simp

@[simp] theorem overlayRead_frame (s : State) (r : ReadResult) :
    (s.overlayRead r).ctl = s.ctl ∧ (s.overlayRead r).writer = s.writer ∧ (s.overlayRead r).tracker =
    s.tracker ∧ (s.overlayRead r).mapper = s.mapper ∧ (s.overlayRead r).head = s.head ∧ (s.overlayRead
    r).pins = s.pins ∧ (s.overlayRead r).outs = s.outs ∧ (s.overlayRead r).free = s.free ∧ (s.overlayRead
    r).pending = s.pending := by
  dsimp only [State.overlayRead]; split_ands <;> (repeat' split) <;> simp

@[simp] theorem emitSwap_frame (s : State) :
    s.emitSwap.ctl = s.ctl ∧ s.emitSwap.writer = s.writer ∧ s.emitSwap.tracker = s.tracker ∧
    s.emitSwap.mapper = s.mapper ∧ s.emitSwap.head = s.head ∧ s.emitSwap.pins = s.pins ∧ s.emitSwap.outs =
    s.outs ∧ s.emitSwap.free = s.free ∧ s.emitSwap.pending = s.pending := by
  dsimp only [State.emitSwap]; split_ands <;> (repeat' split) <;> simp

@[simp] theorem tableRead_frame (s : State) (r : ReadResult) :
    (s.tableRead r).ctl = s.ctl ∧ (s.tableRead r).writer = s.writer ∧ (s.tableRead r).tracker = s.tracker ∧
    (s.tableRead r).head = s.head ∧ (s.tableRead r).pins = s.pins ∧ (s.tableRead r).outs = s.outs ∧
    (s.tableRead r).free = s.free ∧ (s.tableRead r).pending = s.pending := by
  dsimp only [State.tableRead]; split_ands <;> (repeat' split) <;> simp

@[simp] theorem stage_frame (s : State) (g : Staging) :
    (s.stage g).ctl = s.ctl ∧ (s.stage g).walker = s.walker ∧ (s.stage g).writer = s.writer ∧ (s.stage
    g).port = s.port ∧ (s.stage g).slots = s.slots ∧ (s.stage g).queue = s.queue ∧ (s.stage g).tracker =
    s.tracker ∧ (s.stage g).firing = s.firing ∧ (s.stage g).mapper = s.mapper ∧ (s.stage g).head = s.head ∧
    (s.stage g).pins = s.pins ∧ (s.stage g).outs = s.outs ∧ (s.stage g).free = s.free ∧ (s.stage g).pending
    = s.pending := by
  simp [State.stage]

@[simp] theorem setupBlockRead_frame (s : State) (r : ReadResult) :
    (s.setupBlockRead r).ctl = s.ctl ∧ (s.setupBlockRead r).writer = s.writer ∧ (s.setupBlockRead r).tracker
    = s.tracker ∧ (s.setupBlockRead r).mapper = s.mapper ∧ (s.setupBlockRead r).head = s.head ∧
    (s.setupBlockRead r).pins = s.pins ∧ (s.setupBlockRead r).outs = s.outs ∧ (s.setupBlockRead r).free =
    s.free ∧ (s.setupBlockRead r).pending = s.pending := by
  dsimp only [State.setupBlockRead]; split_ands <;> (repeat' split) <;> simp

@[simp] theorem mapRead_frame (s : State) (r : ReadResult) :
    (s.mapRead r).ctl = s.ctl ∧ (s.mapRead r).writer = s.writer ∧ (s.mapRead r).tracker = s.tracker ∧
    (s.mapRead r).mapper = s.mapper ∧ (s.mapRead r).head = s.head ∧ (s.mapRead r).pins = s.pins ∧ (s.mapRead
    r).outs = s.outs ∧ (s.mapRead r).free = s.free ∧ (s.mapRead r).pending = s.pending := by
  dsimp only [State.mapRead]; split_ands <;> (repeat' split) <;> simp

@[simp] theorem enterHeld_frame (s : State) (it : Item) :
    (s.enterHeld it).ctl = s.ctl ∧ (s.enterHeld it).writer = s.writer ∧ (s.enterHeld it).port = s.port ∧
    (s.enterHeld it).staging = s.staging ∧ (s.enterHeld it).tracker = s.tracker ∧ (s.enterHeld it).firing =
    s.firing ∧ (s.enterHeld it).mapper = s.mapper ∧ (s.enterHeld it).head = s.head ∧ (s.enterHeld it).pins =
    s.pins ∧ (s.enterHeld it).outs = s.outs ∧ (s.enterHeld it).free = s.free ∧ (s.enterHeld it).pending =
    s.pending := by
  simp [State.enterHeld]

@[simp] theorem haltJob_frame (s : State) (x : SlotId) :
    (s.haltJob x).ctl = s.ctl ∧ (s.haltJob x).writer = s.writer ∧ (s.haltJob x).tracker = s.tracker ∧
    (s.haltJob x).mapper = s.mapper ∧ (s.haltJob x).head = s.head ∧ (s.haltJob x).pins = s.pins ∧ (s.haltJob
    x).outs = s.outs ∧ (s.haltJob x).free = s.free ∧ (s.haltJob x).pending = s.pending := by
  simp [State.haltJob]

@[simp] theorem enterAbandoning_frame (s : State) :
    s.enterAbandoning.writer = s.writer ∧ s.enterAbandoning.tracker = s.tracker ∧ s.enterAbandoning.mapper =
    s.mapper ∧ s.enterAbandoning.pins = s.pins ∧ s.enterAbandoning.pending = s.pending := by
  simp [State.enterAbandoning]

@[simp] theorem enterStopped_frame (s : State) :
    s.enterStopped.writer = s.writer ∧ s.enterStopped.port = s.port ∧ s.enterStopped.builder = s.builder ∧
    s.enterStopped.queue = s.queue ∧ s.enterStopped.staging = s.staging ∧ s.enterStopped.mapper = s.mapper ∧
    s.enterStopped.pins = s.pins ∧ s.enterStopped.pending = s.pending := by
  simp [State.enterStopped]

@[simp] theorem chainFault_frame (s : State) (c : ChainCause) :
    (s.chainFault c).mapper = s.mapper ∧ (s.chainFault c).pins = s.pins ∧ (s.chainFault c).pending =
    s.pending := by
  dsimp only [State.chainFault]; split_ands <;> (repeat' split) <;> simp

@[simp] theorem endLookWait_frame (s : State) :
    s.endLookWait.ctl = s.ctl ∧ s.endLookWait.writer = s.writer ∧ s.endLookWait.port = s.port ∧
    s.endLookWait.slots = s.slots ∧ s.endLookWait.builder = s.builder ∧ s.endLookWait.queue = s.queue ∧
    s.endLookWait.staging = s.staging ∧ s.endLookWait.tracker = s.tracker ∧ s.endLookWait.firing = s.firing
    ∧ s.endLookWait.mapper = s.mapper ∧ s.endLookWait.head = s.head ∧ s.endLookWait.pins = s.pins ∧
    s.endLookWait.outs = s.outs ∧ s.endLookWait.free = s.free ∧ s.endLookWait.pending = s.pending := by
  dsimp only [State.endLookWait]; split_ands <;> (repeat' split) <;> simp

@[simp] theorem readLink_frame (s : State) :
    s.readLink.ctl = s.ctl ∧ s.readLink.writer = s.writer ∧ s.readLink.slots = s.slots ∧ s.readLink.builder
    = s.builder ∧ s.readLink.queue = s.queue ∧ s.readLink.staging = s.staging ∧ s.readLink.tracker =
    s.tracker ∧ s.readLink.firing = s.firing ∧ s.readLink.mapper = s.mapper ∧ s.readLink.head = s.head ∧
    s.readLink.pins = s.pins ∧ s.readLink.outs = s.outs ∧ s.readLink.free = s.free ∧ s.readLink.pending =
    s.pending := by
  simp [State.readLink]

@[simp] theorem releaseEnded_frame (s : State) :
    s.releaseEnded.ctl = s.ctl ∧ s.releaseEnded.writer = s.writer ∧ s.releaseEnded.slots = s.slots ∧
    s.releaseEnded.builder = s.builder ∧ s.releaseEnded.queue = s.queue ∧ s.releaseEnded.staging = s.staging
    ∧ s.releaseEnded.tracker = s.tracker ∧ s.releaseEnded.firing = s.firing ∧ s.releaseEnded.mapper =
    s.mapper ∧ s.releaseEnded.head = s.head ∧ s.releaseEnded.pins = s.pins ∧ s.releaseEnded.outs = s.outs ∧
    s.releaseEnded.free = s.free ∧ s.releaseEnded.pending = s.pending := by
  dsimp only [State.releaseEnded]; split_ands <;> (repeat' split) <;> simp

@[simp] theorem finishRelease_frame (s : State) :
    s.finishRelease.ctl = s.ctl ∧ s.finishRelease.slots = s.slots ∧ s.finishRelease.builder = s.builder ∧
    s.finishRelease.queue = s.queue ∧ s.finishRelease.staging = s.staging ∧ s.finishRelease.tracker =
    s.tracker ∧ s.finishRelease.firing = s.firing ∧ s.finishRelease.mapper = s.mapper ∧ s.finishRelease.head =
    s.head ∧ s.finishRelease.pins = s.pins ∧ s.finishRelease.outs = s.outs ∧ s.finishRelease.free = s.free ∧
    s.finishRelease.pending = s.pending := by
  dsimp only [State.finishRelease]; split_ands <;> (repeat' split) <;> simp

@[simp] theorem moveAnchor_frame (s : State) (r : Word) :
    (s.moveAnchor r).ctl = s.ctl ∧ (s.moveAnchor r).port = s.port ∧ (s.moveAnchor r).slots = s.slots ∧
    (s.moveAnchor r).builder = s.builder ∧ (s.moveAnchor r).queue = s.queue ∧ (s.moveAnchor r).staging =
    s.staging ∧ (s.moveAnchor r).tracker = s.tracker ∧ (s.moveAnchor r).firing = s.firing ∧ (s.moveAnchor
    r).mapper = s.mapper ∧ (s.moveAnchor r).head = s.head ∧ (s.moveAnchor r).pins = s.pins ∧ (s.moveAnchor
    r).outs = s.outs ∧ (s.moveAnchor r).free = s.free ∧ (s.moveAnchor r).pending = s.pending := by
  simp [State.moveAnchor]

@[simp] theorem skipRecord_frame (s : State) (r : Word) :
    (s.skipRecord r).ctl = s.ctl ∧ (s.skipRecord r).port = s.port ∧ (s.skipRecord r).slots = s.slots ∧
    (s.skipRecord r).builder = s.builder ∧ (s.skipRecord r).queue = s.queue ∧ (s.skipRecord r).staging =
    s.staging ∧ (s.skipRecord r).tracker = s.tracker ∧ (s.skipRecord r).firing = s.firing ∧ (s.skipRecord
    r).mapper = s.mapper ∧ (s.skipRecord r).head = s.head ∧ (s.skipRecord r).pins = s.pins ∧ (s.skipRecord
    r).outs = s.outs ∧ (s.skipRecord r).free = s.free ∧ (s.skipRecord r).pending = s.pending := by
  dsimp only [State.skipRecord]; split_ands <;> (repeat' split) <;> simp

@[simp] theorem completionAttention_frame (s : State) (j : Job) :
    (s.completionAttention j).walker = s.walker ∧ (s.completionAttention j).writer = s.writer ∧
    (s.completionAttention j).port = s.port ∧ (s.completionAttention j).slots = s.slots ∧
    (s.completionAttention j).builder = s.builder ∧ (s.completionAttention j).queue = s.queue ∧
    (s.completionAttention j).staging = s.staging ∧ (s.completionAttention j).tracker = s.tracker ∧
    (s.completionAttention j).firing = s.firing ∧ (s.completionAttention j).mapper = s.mapper ∧
    (s.completionAttention j).head = s.head ∧ (s.completionAttention j).pins = s.pins ∧
    (s.completionAttention j).outs = s.outs ∧ (s.completionAttention j).free = s.free ∧
    (s.completionAttention j).pending = s.pending := by
  dsimp only [State.completionAttention]; split_ands <;> (repeat' split) <;> simp

@[simp] theorem takeSetup_frame (s : State) :
    s.takeSetup.ctl = s.ctl ∧ s.takeSetup.writer = s.writer ∧ s.takeSetup.port = s.port ∧ s.takeSetup.slots
    = s.slots ∧ s.takeSetup.builder = s.builder ∧ s.takeSetup.pins = s.pins ∧ s.takeSetup.outs = s.outs ∧
    s.takeSetup.free = s.free ∧ s.takeSetup.pending = s.pending := by
  simp [State.takeSetup]

@[simp] theorem takeEnd_frame (s : State) (x : SlotId) :
    (s.takeEnd x).ctl = s.ctl ∧ (s.takeEnd x).walker = s.walker ∧ (s.takeEnd x).port = s.port ∧ (s.takeEnd
    x).builder = s.builder ∧ (s.takeEnd x).staging = s.staging ∧ (s.takeEnd x).tracker = s.tracker ∧
    (s.takeEnd x).firing = s.firing ∧ (s.takeEnd x).mapper = s.mapper ∧ (s.takeEnd x).head = s.head ∧
    (s.takeEnd x).pins = s.pins ∧ (s.takeEnd x).outs = s.outs ∧ (s.takeEnd x).free = s.free ∧ (s.takeEnd
    x).pending = s.pending := by
  simp [State.takeEnd]

@[simp] theorem beginBoth_frame (s : State) :
    s.beginBoth.ctl = s.ctl ∧ s.beginBoth.walker = s.walker ∧ s.beginBoth.port = s.port ∧
    s.beginBoth.builder = s.builder ∧ s.beginBoth.queue = s.queue ∧ s.beginBoth.staging = s.staging ∧
    s.beginBoth.tracker = s.tracker ∧ s.beginBoth.firing = s.firing ∧ s.beginBoth.mapper = s.mapper ∧
    s.beginBoth.head = s.head ∧ s.beginBoth.pins = s.pins ∧ s.beginBoth.outs = s.outs ∧ s.beginBoth.pending
    = s.pending := by
  simp [State.beginBoth]

/-- What an item taken at the head leaves alone. -/
theorem tryHead_frame {s t : State} (e : s.tryHead = some t) :
    t.ctl = s.ctl ∧ t.port = s.port ∧ t.builder = s.builder ∧ t.pins = s.pins ∧ t.outs = s.outs ∧ t.free = s.free ∧
      t.pending = s.pending := by
  unfold State.tryHead State.tryEnd at e
  repeat' split at e
  all_goals cases e
  all_goals simp [State.takeSwap]

/-- An application of a SETUP leaves the head state, the shift and their timers alone. -/
theorem applyStaged_head (s : State) :
    s.applyStaged.head.shift = s.head.shift ∧ s.applyStaged.head.state = s.head.state ∧
      s.applyStaged.head.shiftTimer = s.head.shiftTimer ∧ s.applyStaged.head.warmupTimer = s.head.warmupTimer ∧
      s.applyStaged.head.dat = s.head.dat := by
  unfold State.applyStaged State.applyParams State.applyHeadSetup
  split
  · exact ⟨rfl, rfl, rfl, rfl, rfl⟩
  all_goals dsimp only; split <;> exact ⟨rfl, rfl, rfl, rfl, rfl⟩

/-- An item taken at the head leaves the head state, the shift and their timers alone. -/
theorem tryHead_head {s t : State} (e : s.tryHead = some t) :
    t.head.shift = s.head.shift ∧ t.head.state = s.head.state ∧ t.head.shiftTimer = s.head.shiftTimer ∧
      t.head.warmupTimer = s.head.warmupTimer ∧ t.head.dat = s.head.dat := by
  unfold State.tryHead State.tryEnd at e
  repeat' split at e
  all_goals cases e
  · exact ⟨rfl, rfl, rfl, rfl, rfl⟩
  · exact applyStaged_head _
  · exact ⟨rfl, rfl, rfl, rfl, rfl⟩
  · simp

/-- A property that every item taken at the head keeps is kept when all are taken. -/
theorem takeHeads_keeps {P : State → Prop} (h : ∀ s t, P s → s.tryHead = some t → P t) :
    ∀ (n : Nat) (s : State), P s → P (State.takeHeads n s) := by
  intro n
  induction n with
  | zero => exact fun s hs => hs
  | succ n ih =>
    intro s hs
    unfold State.takeHeads
    split
    · exact hs
    · exact ih _ (h _ _ hs ‹_›)

/-- A property that every item taken at the head and the abort of a shift keep is kept by the loss of a shift. -/
theorem shiftLost_keeps {P : State → Prop} (h : ∀ s t, P s → s.tryHead = some t → P t) {s : State}
    (ha : P s.abortShift) : P s.shiftLost := by
  unfold State.shiftLost; split
  · exact takeHeads_keeps h _ _ ha
  · exact ha

@[simp] theorem shiftLost_frame (s : State) :
    s.shiftLost.ctl = s.ctl ∧ s.shiftLost.port = s.port ∧ s.shiftLost.builder = s.builder ∧ s.shiftLost.pins = s.pins ∧
    s.shiftLost.pending = s.pending :=
  shiftLost_keeps (P := fun t => t.ctl = s.ctl ∧ t.port = s.port ∧ t.builder = s.builder ∧ t.pins = s.pins ∧
    t.pending = s.pending) (fun _ _ k e => by
      obtain ⟨a, b, c, d, -, -, f⟩ := tryHead_frame e
      exact ⟨a.trans k.1, b.trans k.2.1, c.trans k.2.2.1, d.trans k.2.2.2.1, f.trans k.2.2.2.2⟩) (by simp)

@[simp] theorem loseHead_frame (s : State) :
    s.loseHead.ctl = s.ctl ∧ s.loseHead.port = s.port ∧ s.loseHead.builder = s.builder ∧ s.loseHead.pins = s.pins ∧
    s.loseHead.pending = s.pending := by
  simp [State.loseHead]

@[simp] theorem abortShift_state (s : State) : s.abortShift.head.state = s.head.state := by
  unfold State.abortShift; split <;> simp [State.stopShift, State.discardRows]

end Sys2Proof.Machine
end

