-- ==== Sys2Proof/Laws/Events.lean ====
section
/-! SUPPORT. How an event reaches the block, how a transaction ends, and the own steps to rest. -/

namespace Sys2Proof.Machine

/-- An event with RESET inactive. -/
theorem event_live {s : State} (h : s.pins.resetActive = false) (f) : event s f = .next (f s.quiet) :=
    by simp [event, h]

/-- An event on an input with RESET inactive. -/
theorem pinEvent_live {s : State} {p : Pins} (h : p.resetActive = false) (f) : pinEvent s p f = .next
    (f ({ s with pins := p } : State).quiet) := by simp [pinEvent, event, h]

/-- What an event answers. -/
theorem event_eq {s t : State} {f : State → State} (e : event s f = .next t) :
    t = if s.pins.resetActive then s.quiet else f s.quiet := by
  simp [event] at e; exact e.symm

/-- A property the block keeps at an event, RESET active or not. -/
theorem keeps_event {P : State → Prop} {s t : State} {f} (e : event s f = .next t) (q : P s.quiet)
    (h : P s.quiet → P (f s.quiet)) : P t := by
  rw [event_eq e]; split
  · exact q
  · exact h q

/-- What an own step can be. -/
theorem ownStep_cases {s t : State} (e : s.ownStep = some t) :
    s.tryHead = some t ∨ s.tryDivider = some t ∨ s.tryHeld = some t ∨ s.tryStage = some t ∨ s.tryWalk = some t ∨
      s.tryFree = some t ∨ s.tryCompletions = some t ∨ s.tryDrainEnd = some t ∨ s.tryLook = some t ∨
      s.tryWriter = some t ∨ s.tryWant = some t ∨ s.tryGrant = some t := by
  simp only [State.ownStep, Option.or_eq_some_iff] at e
  tauto

/-- A property that every own step keeps is kept to rest. -/
theorem restFor_keeps {P : State → Prop} (h : ∀ s t, P s → s.ownStep = some t → P t) :
    ∀ (n : Nat) (s : State), P s → P (State.restFor n s) := by
  intro n
  induction n with
  | zero => exact fun s hs => hs
  | succ n ih =>
    intro s hs
    unfold State.restFor
    split
    · exact hs
    · exact ih _ (h _ _ hs ‹_›)

/-- A wanted transaction that ends: its requester acts with the port free. -/
theorem endTransaction_wanted {s : State} {k} {bus} (act) {t} (c : s.port.current = some t) (e : t.kind = k)
    (w : t.wanted = true) : s.quiet.endTransaction k bus act = (act t s.portFreed).rest := by
  unfold State.endTransaction; rw [show s.quiet.port = s.port from rfl, c]; simp only [e, if_true, w]; rfl

/-- A transaction that is no longer wanted ends: its outcome is discarded. -/
theorem endTransaction_unwanted {s : State} {k} {bus} (act) {t} (c : s.port.current = some t) (e : t.kind = k)
    (w : t.wanted = false) : s.quiet.endTransaction k bus act =
    ((s.portFreed.onBus (bus t)).discard t.requester).rest := by
  unfold State.endTransaction; rw [show s.quiet.port = s.port from rfl, c]; simp only [e, if_true, w]; rfl

/-- A read the builder waits for ends. -/
theorem endBuilderRead_wanted {s : State} {k} (act) (h : s.readEnds k) : s.quiet.endBuilderRead k act =
    (act s.readDone).rest := by
  obtain ⟨⟨-, t, c, e, w⟩, b, n⟩ := h
  unfold State.endBuilderRead; rw [endTransaction_wanted _ c e w]; rw [if_pos]; rfl
  simp [Builder.reading, State.portFreed, b, n]

end Sys2Proof.Machine
end

