-- ==== Sys2Proof/Laws/Bounds.lean ====
section
/-! SUPPORT. Every operation keeps the bounds of the block (`State.Bounded`). -/

namespace Sys2Proof.Machine

theorem bounded_of_eq {s t : State} (h : s.Bounded) (q : t.queue = s.queue) (tr : t.tracker = s.tracker)
    (b : t.builder = s.builder) (f : t.firing = s.firing) (hd : t.head.periodCount = s.head.periodCount)
    (st : t.staging = s.staging) : t.Bounded := by
  obtain ⟨h1,h2,h3,h4,h5,h6,h7,h8,h9,h10,h11⟩ := h
  constructor <;> simp_all

theorem bounded_printOut {s : State} (h : s.Bounded) : s.printOut.Bounded := by
  obtain ⟨h1,h2,h3,h4,h5,h6,h7,h8,h9,h10,h11⟩ := h
  constructor <;> simp_all

theorem bounded_mapJob {s : State} (h : s.Bounded) x f : (s.mapJob x f).Bounded := by
  apply bounded_of_eq h <;> simp

theorem bounded_countIn {s : State} (h : s.Bounded) f : (s.countIn f).Bounded := by
  apply bounded_of_eq h <;> simp

theorem bounded_purge {s : State} (h : s.Bounded) x : (s.purge x).Bounded := by
  obtain ⟨h1,h2,h3,h4,h5,h6,h7,h8,h9,h10,h11⟩ := h
  constructor <;> simp_all [State.purge]
  · exact le_trans (List.length_filter_le _ _) h1
  · intro p; split <;> simp_all [Staging.params]

theorem bounded_abandon {s : State} (h : s.Bounded) x : (s.abandon x).Bounded := by
  obtain ⟨h1,h2,h3,h4,h5,h6,h7,h8,h9,h10,h11⟩ := h
  constructor <;> simp_all [State.abandon, Builder.reset]
  · intro p; split <;> simp_all [Staging.params]

theorem bounded_takeFault {s : State} (h : s.Bounded) x c e : (s.takeFault x c e).Bounded := by
  simp only [State.takeFault]
  have h1 := bounded_purge (bounded_mapJob h x fun j => { j with fault := some (c, e) }) x
  split
  · split <;> split <;> first
      | exact bounded_printOut (bounded_abandon h1 _)
      | exact bounded_printOut h1
      | exact bounded_abandon h1 _
      | exact h1
  · exact h

theorem bounded_faultBuilding {s : State} (h : s.Bounded) c e : (s.faultBuilding c e).Bounded := by
  unfold State.faultBuilding; split
  · exact h
  · exact bounded_takeFault h _ _ _

theorem bounded_faultCounting {s : State} (h : s.Bounded) c : (s.faultCounting c).Bounded := by
  unfold State.faultCounting; split
  · exact h
  · exact bounded_takeFault h _ _ _

theorem bounded_abortShift {s : State} (h : s.Bounded) : s.abortShift.Bounded := by
  apply bounded_of_eq h <;> first | (simp; done) | skip
  unfold State.abortShift; split <;> simp [State.stopShift, State.discardRows]

theorem bounded_head {s : State} (h : s.Bounded) {hd : HeadLink} (hh : hd.periodCount < 8) :
    State.Bounded { s with head := hd } := by
  obtain ⟨h1,h2,h3,h4,h5,h6,h7,h8,h9,h10,h11⟩ := h
  constructor <;> simp_all

theorem bounded_tickleOff {s : State} (h : s.Bounded) : s.tickleOff.Bounded := by
  obtain ⟨h1,h2,h3,h4,h5,h6,h7,h8,h9,h10,h11⟩ := h
  constructor <;> simp_all [State.tickleOff]

theorem bounded_startRowShift {s : State} (h : s.Bounded) x r : (s.startRowShift x r).Bounded := by
  apply bounded_tickleOff
  exact bounded_head (bounded_abortShift h) (bounded_abortShift h).period

theorem bounded_loseTrigger {s : State} (h : s.Bounded) f c : (s.loseTrigger f c).Bounded := by
  unfold State.loseTrigger; split
  · exact bounded_faultCounting (bounded_countIn h _) _
  · exact bounded_countIn h _

theorem bounded_queue {s : State} (h : s.Bounded) {q : List Item} (hq : q.length ≤ s.queue.length) :
    State.Bounded { s with queue := q } := by
  obtain ⟨h1,h2,h3,h4,h5,h6,h7,h8,h9,h10,h11⟩ := h
  constructor <;> simp_all
  omega

theorem bounded_rowTrigger {s : State} (h : s.Bounded) : s.rowTrigger.Bounded := by
  unfold State.rowTrigger
  split
  · exact bounded_loseTrigger h _ _
  · split
    · split
      · exact bounded_loseTrigger h _ _
      · exact bounded_printOut h
    · rename_i e
      exact bounded_startRowShift (bounded_queue h (by simp [e])) _ _
    all_goals exact h

theorem interval_le {f : Firing} (h : f.pitch ≤ 4096) k : f.interval k ≤ 4097 := by
  unfold Firing.interval; cases lengthened f.pitchTrim k <;> simp <;> omega

theorem nextTrim_mem {k : Nat} (h : 1 ≤ k ∧ k ≤ 16) : 1 ≤ nextTrim k ∧ nextTrim k ≤ 16 := by
  unfold nextTrim; split <;> omega

theorem bounded_dividerExpires {s : State} (h : s.Bounded) : s.dividerExpires.Bounded := by
  have h := bounded_rowTrigger h
  simp only [State.dividerExpires]
  split
  · obtain ⟨h1,h2,h3,h4,h5,h6,h7,h8,h9,h10,h11⟩ := h
    constructor <;> simp_all [Firing.reload, nextTrim_mem, interval_le]
  · exact h

theorem bounded_start {s : State} (h : s.Bounded) {n : Nat} (hn : n ≤ 4097) : State.Bounded
    { s with firing := s.firing.start n } := by
  obtain ⟨h1,h2,h3,h4,h5,h6,h7,h8,h9,h10,h11⟩ := h
  constructor <;> simp_all [Firing.start]

theorem bounded_acceptProduct {s : State} (h : s.Bounded) : s.acceptProduct.Bounded := by
  have := bounded_start (bounded_queue (bounded_countIn h Counts.started) (q := (s.countIn Counts.started).queue.tail)
      (by simp)) (n := 0) (by simp)
  exact this

theorem bounded_productStart {s : State} (h : s.Bounded) : s.productStart.Bounded := by
  unfold State.productStart
  repeat' split
  all_goals first | exact h | exact bounded_countIn h _ | exact bounded_acceptProduct h

theorem bounded_countStep {s : State} (h : s.Bounded) : s.countStep.Bounded := by
  obtain ⟨h1,h2,h3,h4,h5,h6,h7,h8,h9,h10,h11⟩ := h
  constructor <;> simp_all [State.countStep]
  intro n hn; have := h8 _ hn; omega

theorem bounded_fireStep {s : State} (h : s.Bounded) b : (s.fireStep b).Bounded := by
  simp only [State.fireStep]
  repeat' split
  all_goals first
    | exact h
    | exact bounded_countStep (bounded_productStart h)
    | exact bounded_countStep h
    | exact bounded_productStart h

theorem bounded_mapTracker {s : State} (h : s.Bounded) {f : Tracker → Tracker} (h1 : (f s.tracker).marks.length ≤ 8)
   (h2 : (f s.tracker).debt ≤ (f s.tracker).settings.reverseLimit) : (s.mapTracker f).Bounded := by
  obtain ⟨h1,h2,h3,h4,h5,h6,h7,h8,h9,h10,h11⟩ := h
  constructor <;> simp_all

theorem bounded_raise {s : State} (h : s.Bounded) f : (s.raise f).Bounded := by
  apply bounded_of_eq h <;> simp

theorem bounded_webStep {s : State} (h : s.Bounded) : s.webStep.Bounded := by
  have := bounded_mapTracker h (f := fun t => { t with web := .moving, stillTimer := .running t.settings.stillTime })
      h.marks h.debt
  simp only [State.webStep]; split
  · exact bounded_raise this _
  · exact this

theorem bounded_widthStep {s : State} (h : s.Bounded) : s.widthStep.Bounded := by
  simp only [State.widthStep]; repeat' split
  · exact h
  · exact h
  · exact bounded_mapTracker (bounded_countIn h _) (by simpa using h.marks) (by simpa using h.debt)
  · exact bounded_mapTracker h (by simpa using h.marks) (by simpa using h.debt)

theorem bounded_dueStep {s : State} (h : s.Bounded) : s.dueStep.Bounded := by
  simp only [State.dueStep]; repeat' split
  · exact bounded_mapTracker h (by have := h.marks; simp [Config.markCapacity] at *; omega) (by simpa using h.debt)
  · exact h

theorem bounded_effectiveStep {s : State} (h : s.Bounded) : s.effectiveStep.Bounded := by
  apply bounded_fireStep
  apply bounded_dueStep
  apply bounded_widthStep
  apply bounded_webStep
  exact bounded_mapTracker h h.marks h.debt

theorem bounded_reverseLimitEvent {s : State} (h : s.Bounded) : s.reverseLimitEvent.Bounded := by
  have := bounded_mapTracker h (f := fun t => { t.flush with debt := 0 }) (by simp [Tracker.flush]) (by simp)
  simp only [State.reverseLimitEvent]; split
  · exact bounded_faultCounting this _
  · exact this

theorem bounded_judgeMark {s : State} (h : s.Bounded) l w c : (s.judgeMark l w c).Bounded := by
  unfold State.judgeMark; repeat' split
  · exact bounded_countIn h _
  · exact bounded_countIn h _
  · exact h
  · exact bounded_raise (bounded_countIn h _) _
  · exact bounded_mapTracker h (by simp_all [Tracker.accept]) (by simpa [Tracker.accept] using h.debt)

theorem bounded_inactiveEdge {s : State} (h : s.Bounded) : s.inactiveEdge.Bounded := by
  unfold State.inactiveEdge; split
  · exact h
  · have := bounded_judgeMark h
    exact bounded_mapTracker (this _ _ _) (this _ _ _).marks (this _ _ _).debt
  · exact bounded_mapTracker h h.marks h.debt

/-! ### Setup -/

theorem inRange_pitch {p : SetupParams} (h : p.inRange = true) : (1 ≤ p.pitch ∧ p.pitch ≤ 4096) ∧ p.pitchTrim ≤ 15 :=
    by
  simp [SetupParams.inRange] at h; omega

theorem bounded_applyHeadSetup {s : State} (h : s.Bounded) p : (s.applyHeadSetup p).Bounded := by
  simp only [State.applyHeadSetup]; split
  · exact bounded_head h (by simp [State.tickleOff])
  · exact bounded_head h h.period

theorem bounded_applyParams {s : State} (h : s.Bounded) {p} (hp : p.inRange = true) m : (s.applyParams p m).Bounded :=
    by
  apply bounded_applyHeadSetup
  have := inRange_pitch hp
  obtain ⟨h1,h2,h3,h4,h5,h6,h7,h8,h9,h10,h11⟩ := h
  constructor <;> simp_all [Firing.applySetup, Tracker.applySetup, trackerSettingsOf, Staging.params]

theorem bounded_applyStaged {s : State} (h : s.Bounded) : s.applyStaged.Bounded := by
  unfold State.applyStaged; split
  · exact bounded_printOut h
  · exact bounded_applyParams h (h.staged _ (by simp_all [Staging.params])) _
  · exact bounded_applyParams h (h.staged _ (by simp_all [Staging.params])) _

/-! ### Builder -/

theorem bounded_mapBuilder {s : State} (h : s.Bounded) {f : Builder → Builder}
    (h1 : (f s.builder).stack.length ≤ 4) (h2 : ∀ p, (f s.builder).task = .setupMap p → p.inRange = true) :
    (s.mapBuilder f).Bounded := by
  obtain ⟨h1,h2,h3,h4,h5,h6,h7,h8,h9,h10,h11⟩ := h
  constructor <;> simp_all

theorem bounded_requestRead {s : State} (h : s.Bounded) k a n : (s.requestRead k a n).Bounded := by
  simp only [State.requestRead]; split
  · exact bounded_mapBuilder h h.stack h.judged
  · exact bounded_of_eq (bounded_mapBuilder h (f := fun b => { b with state := .fetching, want := none }) h.stack
        h.judged) rfl rfl rfl rfl rfl rfl

theorem bounded_walkOn {s : State} (h : s.Bounded) {t} (ht : ∀ p, t = .setupMap p → p.inRange = true) :
    (s.walkOn t).Bounded :=
  bounded_mapBuilder h h.stack ht

theorem bounded_walkAt {s : State} (h : s.Bounded) i : (s.walkAt i).Bounded :=
  bounded_mapBuilder h h.stack (by simp)

theorem bounded_walkAtWith {s : State} (h : s.Bounded) i {c} (hc : c.length ≤ 4) : (s.walkAtWith i c).Bounded :=
  bounded_mapBuilder (f := fun b => { b with state := .walking, task := .entry, index := i })
      (bounded_mapBuilder h (f := fun b => { b with stack := c }) hc h.judged) hc (by simp)

theorem bounded_oweLook {s : State} (h : s.Bounded) : s.oweLook.Bounded := by
  apply bounded_of_eq h <;> simp

theorem bounded_endBuilding {s : State} (h : s.Bounded) : s.endBuilding.Bounded := by
  unfold State.endBuilding
  apply bounded_oweLook
  have := bounded_mapBuilder h (f := fun _ => { Builder.reset with orphan := s.builder.orphan })
      (by simp [Builder.reset]) (by simp [Builder.reset])
  split
  · exact this
  · exact bounded_mapJob this _ _

theorem bounded_entered {s : State} (h : s.Bounded) t : (s.entered t).Bounded := by
  unfold State.entered; repeat' split
  all_goals first
    | exact h
    | exact bounded_walkAt h _
    | exact bounded_walkOn h (by simp)
    | exact bounded_endBuilding h

theorem bounded_enqueue {s : State} (h : s.Bounded) (hq : s.queue.length < 8) it : (s.enqueue it).Bounded := by
  obtain ⟨h1,h2,h3,h4,h5,h6,h7,h8,h9,h10,h11⟩ := h
  constructor <;> simp_all [State.enqueue, markEmitted]

theorem bounded_emit {s : State} (h : s.Bounded) it : (s.emit it).Bounded := by
  unfold State.emit; split
  · exact bounded_entered (bounded_enqueue h (by simp_all) _) _
  · exact bounded_mapBuilder h h.stack h.judged

theorem bounded_endWalk {s : State} (h : s.Bounded) i : (s.endWalk i).Bounded := by
  unfold State.endWalk; split
  · exact bounded_walkOn h (by simp)
  · exact bounded_faultBuilding h _ _

theorem bounded_startTable {s : State} (h : s.Bounded) a : (s.startTable a).Bounded := by
  unfold State.startTable; split
  · exact bounded_mapBuilder h h.stack h.judged
  · exact bounded_requestRead h _ _ _

theorem bounded_startSetupBlock {s : State} (h : s.Bounded) : (s.startSetupBlock).Bounded := by
  unfold State.startSetupBlock; split
  · exact bounded_mapBuilder h h.stack h.judged
  · exact bounded_requestRead h _ _ _

theorem bounded_actOn {s : State} (h : s.Bounded) x t : (s.actOn x t).Bounded := by
  unfold State.actOn; repeat' split
  all_goals first
    | exact h
    | exact bounded_endWalk h _
    | exact bounded_requestRead h _ _ _
    | exact bounded_emit h _
    | exact bounded_startTable h _
    | exact bounded_startSetupBlock h

theorem bounded_walkEntry {s : State} (h : s.Bounded) e b : (s.walkEntry e b).Bounded := by
  unfold State.walkEntry
  simp only [State.walkImage, State.startImage, State.illegalEntry, State.walkBlank, State.walkWaitMark,
      State.walkTable, State.walkOpen, State.walkExit, State.walkEnd, State.walkClose]
  repeat' split
  all_goals first
    | exact bounded_faultBuilding h _ _
    | exact bounded_walkAt h _
    | exact bounded_walkOn h (by simp)
    | exact bounded_endWalk h _
    | skip
  all_goals (have := h.stack; simp_all; try unfold State.countPass)
  all_goals try split
  all_goals first
    | (apply bounded_walkAtWith (bounded_mapJob h _ _); simp_all [Config.stackDepth])
    | (apply bounded_walkAtWith h; simp_all [Config.stackDepth]; done)
    | (apply bounded_walkAtWith h; simp_all [Config.stackDepth]; omega)

theorem bounded_entryRead {s : State} (h : s.Bounded) r b : (s.entryRead r b).Bounded := by
  unfold State.entryRead; repeat' split
  · exact bounded_faultBuilding h _ _
  · exact bounded_walkEntry h _ _
  · unfold State.walkPair State.illegalEntry; repeat' split
    all_goals first | exact bounded_faultBuilding h _ _ | exact bounded_walkAt h _ | exact bounded_walkOn h (by simp)
  · unfold State.walkOpened; repeat' split
    all_goals first | exact bounded_faultBuilding h _ _ | exact bounded_walkAt h _ | skip
    exact bounded_walkAtWith h _ (by simp_all [Config.stackDepth])
  · exact h

theorem bounded_emitRow {s : State} (h : s.Bounded) d : (s.emitRow d).Bounded := by
  unfold State.emitRow; split
  · exact h
  · exact bounded_emit h _

theorem bounded_rowRead {s : State} (h : s.Bounded) r : (s.rowRead r).Bounded := by
  unfold State.rowRead; repeat' split
  all_goals first
    | exact h
    | exact bounded_faultBuilding h _ _
    | exact bounded_emitRow h _
    | exact bounded_walkOn h (by simp)

theorem bounded_overlayRead {s : State} (h : s.Bounded) r : (s.overlayRead r).Bounded := by
  unfold State.overlayRead; repeat' split
  all_goals first | exact h | exact bounded_faultBuilding h _ _ | exact bounded_emitRow h _

theorem bounded_tableRead {s : State} (h : s.Bounded) r : (s.tableRead r).Bounded := by
  unfold State.tableRead State.emitSwap; repeat' split
  · exact bounded_faultBuilding h _ _
  · exact bounded_of_eq h rfl rfl rfl rfl rfl rfl
  · apply bounded_emit; exact bounded_of_eq h rfl rfl rfl rfl rfl rfl

theorem bounded_stage {s : State} (h : s.Bounded) {g} (hg : ∀ p, g.params = some p → p.inRange = true) :
    (s.stage g).Bounded := by
  obtain ⟨h1,h2,h3,h4,h5,h6,h7,h8,h9,h10,h11⟩ := h
  constructor <;> simp_all [State.stage, State.walkOn]

theorem bounded_setupBlockRead {s : State} (h : s.Bounded) r : (s.setupBlockRead r).Bounded := by
  simp only [State.setupBlockRead]; repeat' split
  all_goals first
    | exact h
    | exact bounded_faultBuilding h _ _
    | (apply bounded_stage h; simp_all [Staging.params])
    | (apply bounded_walkOn h; simp_all)

theorem bounded_mapRead {s : State} (h : s.Bounded) r : (s.mapRead r).Bounded := by
  have := h.judged
  simp only [State.mapRead]; repeat' split
  all_goals first | exact h | exact bounded_faultBuilding h _ _ | (apply bounded_stage h; simp_all [Staging.params])

/-! ### Control -/

theorem bounded_enterStopped {s : State} (h : s.Bounded) : s.enterStopped.Bounded := by
  obtain ⟨h1,h2,h3,h4,h5,h6,h7,h8,h9,h10,h11⟩ := h
  constructor <;> simp_all [State.enterStopped, State.headOff, State.stopHeadTimers, State.tickleOff, State.setHead,
      State.firingRest, Firing.rest, State.mapTracker, Tracker.forget]

theorem bounded_chainFault {s : State} (h : s.Bounded) c : (s.chainFault c).Bounded := by
  unfold State.chainFault; split
  · exact h
  obtain ⟨h1,h2,h3,h4,h5,h6,h7,h8,h9,h10,h11⟩ := h
  constructor <;> simp_all [State.headOff, State.stopHeadTimers, State.tickleOff, State.setHead, State.firingRest,
      Firing.rest, State.mapTracker, Tracker.forget, Builder.reset, Staging.params]

theorem bounded_enterAbandoning {s : State} (h : s.Bounded) : s.enterAbandoning.Bounded := by
  simp only [State.enterAbandoning, State.haltJob]
  refine bounded_of_eq (s := State.takeFault _ _ _ _) ?_ rfl rfl rfl rfl rfl rfl
  apply bounded_takeFault
  apply bounded_takeFault
  apply bounded_printOut
  have : (s.setEngine .abandoning).Bounded := bounded_of_eq h rfl rfl rfl rfl rfl rfl
  have := bounded_tickleOff (bounded_abortShift this)
  exact bounded_of_eq
      (bounded_head this (hd := { ((s.setEngine .abandoning).abortShift).tickleOff.head with idleTimer := .stopped })
      this.period) rfl rfl rfl rfl rfl rfl

theorem bounded_afterReset a e p f q : (State.afterReset a e p f q).Bounded := by
  constructor <;> simp [State.afterReset, Tracker.reset, Builder.reset, Firing.reset, HeadLink.reset, Staging.params]

/-! ### Own steps -/

theorem bounded_addTask {s : State} (h : s.Bounded) t : (s.addTask t).Bounded := bounded_of_eq h rfl rfl rfl rfl rfl
    rfl

theorem bounded_tryEnd {s t : State} (h : s.Bounded) (e : s.tryEnd = some t) : t.Bounded := by
  unfold State.tryEnd at e
  repeat' split at e
  all_goals simp at e
  subst e
  exact bounded_addTask (bounded_mapJob (bounded_queue h (q := s.queue.tail) (by simp)) _ _) _

theorem bounded_tryHeld {s t : State} (h : s.Bounded) (e : s.tryHeld = some t) : t.Bounded := by
  unfold State.tryHeld at e; repeat' split at e
  all_goals simp at e
  subst e; exact bounded_entered (bounded_enqueue h (by simp_all) _) _

theorem bounded_tryStage {s t : State} (h : s.Bounded) (e : s.tryStage = some t) : t.Bounded := by
  unfold State.tryStage at e; repeat' split at e
  all_goals simp at e
  subst e; exact bounded_actOn (bounded_walkOn h h.judged) _ _

theorem bounded_tryHead {s t : State} (h : s.Bounded) (e : s.tryHead = some t) : t.Bounded := by
  unfold State.tryHead State.tryEnd at e
  repeat' split at e
  all_goals simp at e
  all_goals subst e
  · exact bounded_of_eq (bounded_queue h (q := s.queue.tail) (by simp)) rfl rfl rfl rfl rfl rfl
  · exact bounded_applyStaged (bounded_queue h (q := s.queue.tail) (by simp))
  · exact bounded_printOut h
  · exact bounded_addTask (bounded_mapJob (bounded_queue h (q := s.queue.tail) (by simp)) _ _) _

theorem bounded_ownStep {s t : State} (h : s.Bounded) (e : s.ownStep = some t) : t.Bounded := by
  rcases ownStep_cases e with e | e | e | e | e | e | e | e | e | e | e | e
  · exact bounded_tryHead h e
  · unfold State.tryDivider at e; split at e <;> simp at e; subst e; exact bounded_dividerExpires h
  · unfold State.tryHeld at e; repeat' split at e
    all_goals simp at e
    subst e; exact bounded_entered (bounded_enqueue h (by simp_all) _) _
  · unfold State.tryStage at e; repeat' split at e
    all_goals simp at e
    subst e; exact bounded_actOn (bounded_walkOn h h.judged) _ _
  · unfold State.tryWalk at e; repeat' split at e
    all_goals simp at e
    obtain ⟨-, rfl⟩ := e; exact bounded_actOn h _ _
  · unfold State.tryFree at e; split at e <;> simp at e; subst e; exact bounded_start h (by simp)
  · unfold State.tryCompletions State.tryCompletion at e; repeat' split at e
    all_goals simp at e
    all_goals try subst e
    all_goals exact bounded_of_eq h (by simp) (by simp) (by simp) (by simp) (by simp) (by simp)
  · unfold State.tryDrainEnd at e; split at e <;> simp at e; subst e; exact bounded_enterStopped h
  · unfold State.tryLook at e; split at e <;> simp at e; subst e; exact bounded_of_eq h rfl rfl rfl rfl rfl rfl
  · unfold State.tryWriter at e; split at e <;> simp at e; obtain ⟨_, -, rfl⟩ := e;
        exact bounded_of_eq h rfl rfl rfl rfl rfl rfl
  · unfold State.tryWant at e; split at e <;> simp at e; obtain ⟨_, -, rfl⟩ := e
    exact bounded_of_eq (bounded_mapBuilder h (f := fun b => { b with want := none }) h.stack h.judged) rfl rfl rfl
        rfl rfl rfl
  · unfold State.tryGrant at e; split at e <;> simp at e; obtain ⟨_, -, rfl⟩ := e;
        exact bounded_of_eq h rfl rfl rfl rfl rfl rfl

theorem bounded_rest {s : State} (h : s.Bounded) : s.rest.Bounded :=
  restFor_keeps (fun _ _ => bounded_ownStep) _ _ h

theorem bounded_quiet {s : State} (h : s.Bounded) : s.quiet.Bounded := bounded_of_eq h rfl rfl rfl rfl rfl rfl

theorem bounded_event {s t : State} {f} (h : s.Bounded) (e : event s f = .next t)
    (hf : ∀ u, u.Bounded → (f u).Bounded) : t.Bounded :=
  keeps_event e (bounded_quiet h) (hf _)

theorem bounded_pinEvent {s t : State} {p f} (h : s.Bounded) (e : pinEvent s p f = .next t)
    (hf : ∀ u, u.Bounded → (f u).Bounded) : t.Bounded :=
  bounded_event (s := { s with pins := p }) (bounded_of_eq h rfl rfl rfl rfl rfl rfl) e hf

theorem bounded_ctl {s : State} (h : s.Bounded) c : State.Bounded {s with ctl := c} := bounded_of_eq h rfl rfl rfl rfl
    rfl rfl

theorem bounded_enterReady {s : State} (h : s.Bounded) : s.enterReady.Bounded := by
  simp only [State.enterReady]; repeat' split
  · exact bounded_of_eq h rfl rfl rfl rfl rfl rfl
  · exact bounded_of_eq h rfl rfl rfl rfl rfl rfl

theorem bounded_beginWarmup {s : State} (h : s.Bounded) : s.beginWarmup.Bounded := by
  simp only [State.beginWarmup]; repeat' split
  · exact bounded_enterReady h
  · exact bounded_head h h.period

theorem bounded_powerHead {s : State} (h : s.Bounded) : s.powerHead.Bounded := by
  simp only [State.powerHead]; repeat' split
  · exact bounded_beginWarmup h
  · exact bounded_of_eq h rfl rfl rfl rfl rfl rfl

theorem bounded_walker {s : State} (h : s.Bounded) w : State.Bounded {s with walker := w} := bounded_of_eq h rfl rfl
    rfl rfl rfl rfl

theorem bounded_port {s : State} (h : s.Bounded) w : State.Bounded {s with port := w} := bounded_of_eq h rfl rfl rfl
    rfl rfl rfl

theorem bounded_doStart {s : State} (h : s.Bounded) : s.doStart.Bounded := by
  unfold State.doStart; repeat' split
  · exact bounded_rest (bounded_oweLook (bounded_powerHead (bounded_ctl h _)))
  · exact bounded_rest (bounded_oweLook (bounded_ctl h _))
  all_goals exact bounded_ctl h _

theorem bounded_ceaseLooking {s : State} (h : s.Bounded) : s.ceaseLooking.Bounded := bounded_of_eq h rfl rfl rfl rfl
    rfl rfl

theorem bounded_doStop {s : State} (h : s.Bounded) : s.doStop.Bounded := by
  unfold State.doStop; repeat' split
  · exact bounded_rest (bounded_ceaseLooking (bounded_ctl h _))
  all_goals exact bounded_ctl h _

theorem bounded_doHalt {s : State} (h : s.Bounded) : s.doHalt.Bounded := by
  unfold State.doHalt; repeat' split
  all_goals first | exact bounded_ctl h _ | exact bounded_rest (bounded_enterAbandoning (bounded_ctl h _))

theorem bounded_doSkip {s : State} (h : s.Bounded) : s.doSkip.Bounded := by
  unfold State.doSkip State.skipCounting; repeat' split
  all_goals first | exact bounded_ctl h _ | exact bounded_rest (bounded_takeFault (bounded_ctl h _) _ _ _)

theorem bounded_doLook {s : State} (h : s.Bounded) : s.doLook.Bounded := by
  unfold State.doLook; repeat' split
  all_goals first | exact bounded_ctl h _ | exact bounded_rest (bounded_oweLook (bounded_ctl h _))

theorem bounded_resetTo {s : State} (a e p c) : (s.resetTo a e p c).Bounded := 
  bounded_of_eq (bounded_afterReset a e p s.free s.pending) rfl rfl rfl rfl rfl rfl

theorem bounded_writeChain {s : State} (h : s.Bounded) v : (s.writeChain v).Bounded := by
  unfold State.writeChain; split
  · exact bounded_walker (bounded_ctl h _) _
  · exact bounded_ctl h _

theorem bounded_writeRegister {s : State} (h : s.Bounded) o b v : (s.writeRegister o b v).Bounded := by
  unfold State.writeRegister State.writeControl
  repeat' split
  all_goals first
    | exact h
    | exact bounded_doStart h
    | exact bounded_doStop h| exact bounded_doHalt h| exact bounded_doSkip h| exact bounded_doLook h
    | exact bounded_resetTo _ _ _ _
    | exact bounded_writeChain h _
    | exact bounded_ctl h _

theorem bounded_onBus {s : State} (h : s.Bounded) r : (s.onBus r).Bounded := bounded_of_eq h rfl rfl rfl rfl rfl rfl

theorem bounded_endTransaction {s : State} (h : s.Bounded) k {bus act} (ha : ∀ tx u, u.Bounded → (act tx u).Bounded) :
    (s.endTransaction k bus act).Bounded := by
  simp only [State.endTransaction]; repeat' split
  · exact h
  · exact bounded_rest (ha _ _ (bounded_port h _))
  · apply bounded_rest
    unfold State.discard; split
    · exact bounded_mapBuilder (bounded_onBus (bounded_port h _) _) h.stack h.judged
    · exact bounded_of_eq h rfl rfl rfl rfl rfl rfl
    · exact bounded_of_eq h rfl rfl rfl rfl rfl rfl
  · exact h

theorem bounded_endBuilderRead {s : State} (h : s.Bounded) k {act} (ha : ∀ u, u.Bounded → (act u).Bounded) :
    (s.endBuilderRead k act).Bounded :=
  bounded_endTransaction h k (fun _ u hu => by split; exacts [ha _ (bounded_mapBuilder hu hu.stack hu.judged), hu])

theorem bounded_lookOn {s : State} (h : s.Bounded) g k a n : (s.lookOn g k a n).Bounded := bounded_of_eq h rfl rfl rfl
    rfl rfl rfl

theorem bounded_endLookWait {s : State} (h : s.Bounded) : s.endLookWait.Bounded := by
  unfold State.endLookWait; split <;> exact bounded_walker h _

theorem bounded_moveAnchor {s : State} (h : s.Bounded) r : (s.moveAnchor r).Bounded := bounded_of_eq h rfl rfl rfl rfl
    rfl rfl

theorem bounded_skipRecord {s : State} (h : s.Bounded) r : (s.skipRecord r).Bounded := by
  unfold State.skipRecord; split <;> exact bounded_walker (bounded_moveAnchor h _) _

theorem bounded_linkRead {s : State} (h : s.Bounded) r : (s.linkRead r).Bounded := by
  unfold State.linkRead; repeat' split
  all_goals first
    | exact h
    | exact bounded_chainFault h _
    | exact bounded_endLookWait h
    | exact bounded_lookOn h _ _ _ _

theorem bounded_stateRead {s : State} (h : s.Bounded) r : (s.stateRead r).Bounded := by
  unfold State.stateRead; repeat' split
  all_goals first
    | exact h
    | exact bounded_chainFault h _
    | exact bounded_endLookWait h
    | exact bounded_lookOn h _ _ _ _
    | exact bounded_skipRecord h _

theorem bounded_headerRead {s : State} (h : s.Bounded) r : (s.headerRead r).Bounded := by
  unfold State.headerRead; repeat' split
  all_goals first | exact h | exact bounded_chainFault h _ | exact bounded_lookOn h _ _ _ _

theorem bounded_take {s : State} (h : s.Bounded) r g : (s.take r g).Bounded := by
  unfold State.take; apply bounded_walker
  repeat' split
  · exact bounded_moveAnchor h _
  · exact bounded_oweLook (bounded_of_eq h (by simp) (by simp) (by simp) (by simp) (by simp) (by simp))
  · exact bounded_oweLook (bounded_of_eq h (by simp) (by simp) (by simp) (by simp) (by simp) (by simp))
  · unfold State.takeValid State.beginBuild
    apply bounded_mapBuilder
    · exact bounded_of_eq h rfl rfl rfl rfl rfl rfl
    · simp [Builder.reset]
    · intro p; split <;> simp

theorem bounded_exchangeDone {s : State} (h : s.Bounded) r : (s.exchangeDone r).Bounded := by
  unfold State.exchangeDone; repeat' split
  all_goals first
    | exact h
    | exact bounded_chainFault h _
    | exact bounded_endLookWait h
    | exact bounded_take h _ _
    | exact bounded_skipRecord h _

theorem bounded_writer {s : State} (h : s.Bounded) w : State.Bounded {s with writer := w} := bounded_of_eq h rfl rfl
    rfl rfl rfl rfl

theorem bounded_slots {s : State} (h : s.Bounded) w : State.Bounded {s with slots := w} := bounded_of_eq h rfl rfl rfl
    rfl rfl rfl

theorem bounded_resultWritten {s : State} (h : s.Bounded) t r : (s.resultWritten t r).Bounded := by
  unfold State.resultWritten; split
  · exact bounded_chainFault (bounded_onBus h _) _
  · exact bounded_writer (bounded_onBus h _) _

theorem bounded_completed {s : State} (h : s.Bounded) t w : (s.completed t w).Bounded := by
  unfold State.completed State.completionAttention; repeat' split
  all_goals first | exact h | skip
  all_goals apply bounded_oweLook
  all_goals have := bounded_writer (bounded_slots (bounded_onBus h .nothing) s.slots)
  all_goals exact bounded_of_eq h rfl rfl rfl rfl rfl rfl

theorem bounded_stateUpdated {s : State} (h : s.Bounded) t r : (s.stateUpdated t r).Bounded := by
  unfold State.stateUpdated; repeat' split
  · exact bounded_chainFault (bounded_onBus h _) _
  · exact bounded_completed h _ _
  · exact bounded_chainFault h _

theorem bounded_releaseDone {s : State} (h : s.Bounded) t r : (s.releaseDone t r).Bounded := by
  unfold State.releaseDone; split
  · exact bounded_chainFault (bounded_onBus h _) _
  · apply bounded_of_eq h <;> simp

theorem bounded_orStay {s : State} {o : Option State} (h : s.Bounded) (ho : ∀ t, o = some t → t.Bounded) :
    (s.orStay o).Bounded := by
  unfold State.orStay; split
  · exact h
  · exact bounded_rest (ho _ rfl)

theorem bounded_beginPeriod {s : State} (h : s.Bounded) : s.beginPeriod.Bounded := by
  simp only [State.beginPeriod, State.startTickleShift]; repeat' split
  all_goals first | exact h | exact bounded_head h h.period

theorem bounded_loseHead {s : State} (h : s.Bounded) : s.loseHead.Bounded := by
  have h1 : s.shiftLost.Bounded := shiftLost_keeps (fun _ _ k e => bounded_tryHead k e) (bounded_abortShift h)
  exact bounded_printOut (bounded_head h1 (by simp [State.stopHeadTimers, State.tickleOff]))

end Sys2Proof.Machine
end

