-- ==== Sys2Proof/Laws/HeadFiring.lean ====
section
/-! SUPPORT. Every operation keeps the head and the firing section consistent (`State.HeadConsistent`). -/

namespace Sys2Proof.Machine

theorem consistent_of_eq {s t : State} (h : s.HeadConsistent) (f : t.firing = s.firing) (hd : t.head = s.head)
    (c : t.ctl.engine = s.ctl.engine) : t.HeadConsistent := by
  obtain ⟨h1,h2,h3,h4,h5,h6,h7,h8,h9⟩ := h
  constructor <;> simp_all

theorem consistent_printOut {s : State} (h : s.HeadConsistent) : s.printOut.HeadConsistent := by
  obtain ⟨h1,h2,h3,h4,h5,h6,h7,h8,h9⟩ := h
  constructor <;> simp_all

theorem consistent_mapJob {s : State} (h : s.HeadConsistent) x f : (s.mapJob x f).HeadConsistent := by
  apply consistent_of_eq h <;> simp

theorem consistent_countIn {s : State} (h : s.HeadConsistent) f : (s.countIn f).HeadConsistent := by
  apply consistent_of_eq h <;> simp

theorem consistent_takeFault {s : State} (h : s.HeadConsistent) x c e : (s.takeFault x c e).HeadConsistent := by
  simp only [State.takeFault]
  repeat' split
  all_goals first
    | exact h
    | (apply consistent_of_eq h <;> simp; done)
    | (apply consistent_of_eq (consistent_printOut h) <;> simp [State.printOut])

theorem consistent_faultBuilding {s : State} (h : s.HeadConsistent) c e : (s.faultBuilding c e).HeadConsistent := by
  unfold State.faultBuilding; split
  · exact h
  · exact consistent_takeFault h _ _ _

theorem consistent_faultCounting {s : State} (h : s.HeadConsistent) c : (s.faultCounting c).HeadConsistent := by
  unfold State.faultCounting; split
  · exact h
  · exact consistent_takeFault h _ _ _

theorem consistent_abortShift {s : State} (h : s.HeadConsistent) : s.abortShift.HeadConsistent := by
  obtain ⟨h1,h2,h3,h4,h5,h6,h7,h8,h9⟩ := h
  unfold State.abortShift; split <;> constructor <;> simp_all [State.stopShift, State.discardRows]

theorem consistent_tickleOff {s : State} (h : s.HeadConsistent) : s.tickleOff.HeadConsistent := by
  obtain ⟨h1,h2,h3,h4,h5,h6,h7,h8,h9⟩ := h
  constructor <;> simp_all [State.tickleOff]

theorem consistent_beginShift {s : State} (h : s.HeadConsistent) (r : s.head.state = .ready) {x} (hx : x ≠ .idle) :
    (s.beginShift x).HeadConsistent := by
  obtain ⟨h1,h2,h3,h4,h5,h6,h7,h8,h9⟩ := h
  constructor <;> simp_all [State.beginShift]

theorem consistent_startRowShift {s : State} (h : s.HeadConsistent) (r : s.head.state = .ready) x w :
    (s.startRowShift x w).HeadConsistent :=
  consistent_tickleOff (consistent_beginShift (consistent_abortShift h) (by simpa) (by simp))

theorem consistent_loseTrigger {s : State} (h : s.HeadConsistent) f c : (s.loseTrigger f c).HeadConsistent := by
  unfold State.loseTrigger; split
  · exact consistent_faultCounting (consistent_countIn h _) _
  · exact consistent_countIn h _

theorem consistent_rowTrigger {s : State} (h : s.HeadConsistent) (r : s.head.state = .ready):
    s.rowTrigger.HeadConsistent := by
  unfold State.rowTrigger
  split
  · exact consistent_loseTrigger h _ _
  · split
    · split
      · exact consistent_loseTrigger h _ _
      · exact consistent_printOut h
    · apply consistent_startRowShift _ (by simpa using r); exact consistent_of_eq h rfl rfl rfl
    all_goals exact h

theorem consistent_firing {s : State} (h : s.HeadConsistent) {f : Firing}
    (h1 : f.print = .into → s.head.state = .ready)
   (h2 : f.divider.isSome = true ↔ f.print = .into) : State.HeadConsistent { s with firing := f } := by
  obtain ⟨h1,h2,h3,h4,h5,h6,h7,h8,h9⟩ := h
  constructor <;> simp_all

theorem consistent_dividerExpires {s : State} (h : s.HeadConsistent) (r : s.head.state = .ready) :
    s.dividerExpires.HeadConsistent := by
  have h := consistent_rowTrigger h r
  simp only [State.dividerExpires]
  split
  · exact consistent_firing h (fun _ => h.printing ‹_›) (by simp_all [Firing.reload])
  · exact h

theorem consistent_productStart {s : State} (h : s.HeadConsistent) : s.productStart.HeadConsistent := by
  unfold State.productStart
  repeat' split
  all_goals first | exact h | exact consistent_countIn h _ | skip
  simp only [State.acceptProduct]
  exact consistent_firing (s := {s.countIn Counts.started with queue := (s.countIn Counts.started).queue.tail})
      (consistent_of_eq h (by simp) (by simp) (by simp)) (by simp_all) (by simp [Firing.start])

theorem consistent_countStep {s : State} (h : s.HeadConsistent) : s.countStep.HeadConsistent := 
  consistent_firing h h.printing (by simpa using h.divider)

theorem consistent_fireStep {s : State} (h : s.HeadConsistent) b : (s.fireStep b).HeadConsistent := by
  simp only [State.fireStep]
  repeat' split
  all_goals first
    | exact h
    | exact consistent_countStep (consistent_productStart h)
    | exact consistent_countStep h
    | exact consistent_productStart h

theorem consistent_effectiveStep {s : State} (h : s.HeadConsistent) : s.effectiveStep.HeadConsistent := by
  apply consistent_fireStep
  apply consistent_of_eq h (by simp) (by simp)
  simp only [dueStep_frame, widthStep_frame]
  simp only [State.webStep]; split <;> simp

theorem consistent_reverseLimitEvent {s : State} (h : s.HeadConsistent) : s.reverseLimitEvent.HeadConsistent := by
  simp only [State.reverseLimitEvent]; split
  · apply consistent_faultCounting; exact consistent_of_eq h rfl rfl rfl
  · exact consistent_of_eq h rfl rfl rfl

theorem consistent_inactiveEdge {s : State} (h : s.HeadConsistent) : s.inactiveEdge.HeadConsistent := by
  apply consistent_of_eq h (by simp) (by simp)
  unfold State.inactiveEdge State.judgeMark; repeat' split
  all_goals simp

theorem consistent_restartIdle {s : State} (h : s.HeadConsistent) (r : s.head.state = .ready) :
    s.restartIdle.HeadConsistent := by
  obtain ⟨h1,h2,h3,h4,h5,h6,h7,h8,h9⟩ := h
  constructor <;> simp_all [State.restartIdle]

theorem consistent_settings {s : State} (h : s.HeadConsistent) x : State.HeadConsistent
    { s with head := { s.head with settings := x } } := by
  obtain ⟨h1,h2,h3,h4,h5,h6,h7,h8,h9⟩ := h
  constructor <;> simp_all

theorem consistent_applyHeadSetup {s : State} (h : s.HeadConsistent) p : (s.applyHeadSetup p).HeadConsistent := by
  simp only [State.applyHeadSetup]; split
  · exact consistent_restartIdle (consistent_tickleOff (consistent_settings h _)) (by simpa [State.tickleOff])
  · exact consistent_settings h _

theorem consistent_applyStaged {s : State} (h : s.HeadConsistent) : s.applyStaged.HeadConsistent := by
  unfold State.applyStaged; split
  · exact consistent_printOut h
  all_goals
    apply consistent_applyHeadSetup
    exact consistent_of_eq (consistent_firing h (f := s.firing.applySetup _) (by simp [Firing.applySetup])
        (by simp [Firing.applySetup])) rfl rfl rfl

theorem consistent_endWalk {s : State} (h : s.HeadConsistent) i : (s.endWalk i).HeadConsistent := by
  unfold State.endWalk; split
  · exact consistent_of_eq h rfl rfl rfl
  · exact consistent_faultBuilding h _ _

theorem consistent_actOn {s : State} (h : s.HeadConsistent) x t : (s.actOn x t).HeadConsistent := by
  unfold State.actOn; repeat' split
  all_goals first | exact h | exact consistent_endWalk h _ | exact consistent_of_eq h (by simp) (by simp) (by simp)

theorem consistent_entryRead {s : State} (h : s.HeadConsistent) r b : (s.entryRead r b).HeadConsistent := by
  unfold State.entryRead State.walkEntry State.fetchError
  simp only [State.walkImage, State.startImage, State.illegalEntry, State.walkBlank, State.walkWaitMark,
      State.walkTable, State.walkOpen, State.walkExit, State.walkEnd, State.walkClose, State.walkPair,
      State.walkOpened]
  repeat' split
  all_goals first
    | exact h
    | exact consistent_faultBuilding h _ _
    | exact consistent_endWalk h _
    | exact consistent_of_eq h (by simp) (by simp) (by simp)

theorem consistent_rowRead {s : State} (h : s.HeadConsistent) r : (s.rowRead r).HeadConsistent := by
  unfold State.rowRead State.emitRow State.fetchError; repeat' split
  all_goals first
    | exact h
    | exact consistent_faultBuilding h _ _
    | exact consistent_of_eq h (by simp) (by simp) (by simp)

theorem consistent_overlayRead {s : State} (h : s.HeadConsistent) r : (s.overlayRead r).HeadConsistent := by
  unfold State.overlayRead State.emitRow State.fetchError; repeat' split
  all_goals first
    | exact h
    | exact consistent_faultBuilding h _ _
    | exact consistent_of_eq h (by simp) (by simp) (by simp)

theorem consistent_tableRead {s : State} (h : s.HeadConsistent) r : (s.tableRead r).HeadConsistent := by
  unfold State.tableRead State.emitSwap State.fetchError; repeat' split
  all_goals first
    | exact h
    | exact consistent_faultBuilding h _ _
    | exact consistent_of_eq h (by simp) (by simp) (by simp)

theorem consistent_setupBlockRead {s : State} (h : s.HeadConsistent) r : (s.setupBlockRead r).HeadConsistent := by
  simp only [State.setupBlockRead, State.fetchError]; repeat' split
  all_goals first
    | exact h
    | exact consistent_faultBuilding h _ _
    | exact consistent_of_eq h (by simp) (by simp) (by simp)

theorem consistent_mapRead {s : State} (h : s.HeadConsistent) r : (s.mapRead r).HeadConsistent := by
  simp only [State.mapRead, State.fetchError]; repeat' split
  all_goals first
    | exact h
    | exact consistent_faultBuilding h _ _
    | exact consistent_of_eq h (by simp) (by simp) (by simp)

@[simp] theorem abortShift_shift (s : State) : s.abortShift.head.shift = .idle := by
  unfold State.abortShift; split <;> simp_all [State.stopShift, State.discardRows]

theorem abortShift_shiftTimer (s : State) (h : s.head.shiftTimer = .stopped ↔ s.head.shift = .idle) :
    s.abortShift.head.shiftTimer = .stopped := by
  unfold State.abortShift; split <;> simp_all [State.stopShift, State.discardRows]

theorem consistent_headOff {s : State} (st : s.head.shiftTimer = .stopped ↔ s.head.shift = .idle)
    (p : s.firing.print = .out) (d : s.firing.divider = none) : s.headOff.HeadConsistent := by
  have := abortShift_shiftTimer s st
  constructor <;> simp_all [State.headOff, State.stopHeadTimers, State.tickleOff, State.setHead]

theorem consistent_enterStopped {s : State} (h : s.HeadConsistent) : s.enterStopped.HeadConsistent := by
  have := consistent_headOff (s := (State.firingRest
      (State.mapTracker { s.setEngine .stopped with walker := { s.walker with state := .idle, stage := .none } }
      Tracker.forget))) h.shiftTimer rfl rfl
  exact consistent_of_eq this rfl rfl rfl

theorem consistent_raise {s : State} (h : s.HeadConsistent) f : (s.raise f).HeadConsistent := consistent_of_eq h rfl
    rfl rfl

theorem consistent_chainFault {s : State} (h : s.HeadConsistent) c : (s.chainFault c).HeadConsistent := by
  unfold State.chainFault; split
  · exact h
  · apply consistent_raise; apply consistent_headOff
    · exact h.shiftTimer
    · rfl
    · rfl

theorem consistent_enterAbandoning {s : State} (h : s.HeadConsistent) : s.enterAbandoning.HeadConsistent := by
  simp only [State.enterAbandoning, State.haltJob]
  refine consistent_of_eq (s := State.takeFault _ _ _ _) ?_ rfl rfl rfl
  apply consistent_takeFault
  apply consistent_takeFault
  apply consistent_printOut
  have h1 : (s.setEngine .abandoning).HeadConsistent := by
    obtain ⟨h1,h2,h3,h4,h5,h6,h7,h8,h9⟩ := h
    constructor <;> simp_all [EngineState.resting]
  have h2 := consistent_tickleOff (consistent_abortShift h1)
  have h3 : State.HeadConsistent
      { (s.setEngine .abandoning).abortShift.tickleOff with
        head := { (s.setEngine .abandoning).abortShift.tickleOff.head with idleTimer := .stopped } } := by
    obtain ⟨h1,h2,h3,h4,h5,h6,h7,h8,h9⟩ := h2
    constructor <;> simp_all
  exact consistent_of_eq h3 rfl rfl rfl

theorem consistent_afterReset a e p f q : (State.afterReset a e p f q).HeadConsistent := by
  constructor <;> simp [State.afterReset, Firing.reset, HeadLink.reset]

theorem consistent_tryHead {s t : State} (h : s.HeadConsistent) (e : s.tryHead = some t) : t.HeadConsistent := by
  unfold State.tryHead State.tryEnd at e
  repeat' split at e
  all_goals simp at e
  all_goals subst e
  · exact consistent_of_eq h rfl rfl rfl
  · apply consistent_applyStaged; exact consistent_of_eq h rfl rfl rfl
  · exact consistent_printOut h
  · exact consistent_of_eq h (by simp) (by simp) (by simp)

theorem consistent_ownStep {s t : State} (h : s.HeadConsistent) (e : s.ownStep = some t) : t.HeadConsistent := by
  rcases ownStep_cases e with e | e | e | e | e | e | e | e | e | e | e | e
  · exact consistent_tryHead h e
  · unfold State.tryDivider at e; split at e <;> simp at e; subst e;
        exact consistent_dividerExpires h (h.printing (by simp_all))
  · unfold State.tryHeld at e; repeat' split at e
    all_goals simp at e
    subst e; exact consistent_of_eq h (by simp) (by simp) (by simp)
  · unfold State.tryStage at e; repeat' split at e
    all_goals simp at e
    subst e; apply consistent_actOn; exact consistent_of_eq h rfl rfl rfl
  · unfold State.tryWalk at e; repeat' split at e
    all_goals simp at e
    obtain ⟨-, rfl⟩ := e; exact consistent_actOn h _ _
  · unfold State.tryFree at e; split at e <;> simp at e; subst e
    refine consistent_firing h (fun _ => ?_) (by simp [Firing.start])
    have hr : s.freeStartReady = true := by assumption
    unfold State.freeStartReady at hr; split at hr <;> simp_all
  · unfold State.tryCompletions State.tryCompletion at e; repeat' split at e
    all_goals simp at e
    all_goals try subst e
    all_goals exact consistent_of_eq h (by simp) (by simp) (by simp)
  · unfold State.tryDrainEnd at e; split at e <;> simp at e; subst e; exact consistent_enterStopped h
  · unfold State.tryLook at e; split at e <;> simp at e; subst e; exact consistent_of_eq h rfl rfl rfl
  · unfold State.tryWriter at e; split at e <;> simp at e; obtain ⟨_, -, rfl⟩ := e;
        exact consistent_of_eq h rfl rfl rfl
  · unfold State.tryWant at e; split at e <;> simp at e; obtain ⟨_, -, rfl⟩ := e
    exact consistent_of_eq h rfl rfl rfl
  · unfold State.tryGrant at e; split at e <;> simp at e; obtain ⟨_, -, rfl⟩ := e;
        exact consistent_of_eq h rfl rfl rfl

theorem consistent_rest {s : State} (h : s.HeadConsistent) : s.rest.HeadConsistent :=
  restFor_keeps (fun _ _ => consistent_ownStep) _ _ h

theorem consistent_quiet {s : State} (h : s.HeadConsistent) : s.quiet.HeadConsistent := consistent_of_eq h rfl rfl rfl

theorem consistent_event {s t : State} {f} (h : s.HeadConsistent) (e : event s f = .next t)
    (hf : ∀ u, u.HeadConsistent → (f u).HeadConsistent) : t.HeadConsistent :=
  keeps_event e (consistent_quiet h) (hf _)

theorem consistent_pinEvent {s t : State} {p f} (h : s.HeadConsistent) (e : pinEvent s p f = .next t)
    (hf : ∀ u, u.HeadConsistent → (f u).HeadConsistent) : t.HeadConsistent :=
  consistent_event (s := { s with pins := p }) (consistent_of_eq h rfl rfl rfl) e hf

theorem consistent_enterReady {s : State} (h : s.HeadConsistent) (o : s.ctl.engine.resting = false) :
    s.enterReady.HeadConsistent := by
  obtain ⟨h1,h2,h3,h4,h5,h6,h7,h8,h9⟩ := h
  simp only [State.enterReady]; split
  · constructor <;> simp_all
  · constructor <;> simp_all [State.restartIdle]

theorem consistent_beginWarmup {s : State} (h : s.HeadConsistent) (o : s.ctl.engine.resting = false)
    (hs : s.head.state = .off ∨ s.head.state = .lost) : s.beginWarmup.HeadConsistent := by
  simp only [State.beginWarmup]; split
  · exact consistent_enterReady h o
  · obtain ⟨h1,h2,h3,h4,h5,h6,h7,h8,h9⟩ := h
    constructor <;> rcases hs with hs | hs <;> simp_all

theorem consistent_powerHead {s : State} (h : s.HeadConsistent) (o : s.ctl.engine.resting = false)
    (hs : s.head.state = .off) : s.powerHead.HeadConsistent := by
  simp only [State.powerHead]; split
  · exact consistent_beginWarmup h o (.inl hs)
  · obtain ⟨h1,h2,h3,h4,h5,h6,h7,h8,h9⟩ := h
    constructor <;> simp_all [State.setHead]

theorem consistent_engine {s : State} (h : s.HeadConsistent) {e} (he : e.resting = false) :
    (s.setEngine e).HeadConsistent := by
  obtain ⟨h1,h2,h3,h4,h5,h6,h7,h8,h9⟩ := h
  constructor <;> simp_all

theorem consistent_doStart {s : State} (h : s.HeadConsistent) : s.doStart.HeadConsistent := by
  unfold State.doStart; split
  · have := consistent_powerHead (s := s.accept.setEngine .running)
        (consistent_engine (s := s.accept) (e := .running) (consistent_of_eq h rfl rfl rfl) rfl) rfl
        (h.off (by simp_all [EngineState.resting]))
    apply consistent_rest; exact consistent_of_eq this rfl rfl rfl
  · apply consistent_rest; exact consistent_of_eq (consistent_engine h (e := .running) rfl) rfl rfl rfl
  all_goals exact consistent_of_eq h rfl rfl rfl

theorem consistent_doStop {s : State} (h : s.HeadConsistent) : s.doStop.HeadConsistent := by
  unfold State.doStop; split
  · apply consistent_rest; exact consistent_of_eq (consistent_engine h (e := .draining) rfl) rfl rfl rfl
  all_goals exact consistent_of_eq h rfl rfl rfl

theorem consistent_doHalt {s : State} (h : s.HeadConsistent) : s.doHalt.HeadConsistent := by
  unfold State.doHalt; repeat' split
  all_goals first
    | exact consistent_of_eq h rfl rfl rfl
    | exact consistent_rest (consistent_enterAbandoning (consistent_of_eq h rfl rfl rfl))

theorem consistent_doSkip {s : State} (h : s.HeadConsistent) : s.doSkip.HeadConsistent := by
  unfold State.doSkip State.skipCounting; repeat' split
  all_goals first
    | exact consistent_of_eq h rfl rfl rfl
    | (apply consistent_rest; apply consistent_takeFault; exact consistent_of_eq h rfl rfl rfl)

theorem consistent_doLook {s : State} (h : s.HeadConsistent) : s.doLook.HeadConsistent := by
  unfold State.doLook; repeat' split
  all_goals first
    | exact consistent_of_eq h rfl rfl rfl
    | (apply consistent_rest; exact consistent_of_eq h rfl rfl rfl)

theorem consistent_resetTo {s : State} (a e p c) : (s.resetTo a e p c).HeadConsistent := 
  consistent_of_eq (consistent_afterReset a e p s.free s.pending) rfl rfl rfl

theorem consistent_writeChain {s : State} (h : s.HeadConsistent) v : (s.writeChain v).HeadConsistent := by
  unfold State.writeChain; split <;> exact consistent_of_eq h rfl rfl rfl

theorem consistent_writeRegister {s : State} (h : s.HeadConsistent) o b v : (s.writeRegister o b v).HeadConsistent :=
    by
  unfold State.writeRegister State.writeControl
  repeat' split
  all_goals first
    | exact h
    | exact consistent_doStart h
    | exact consistent_doStop h| exact consistent_doHalt h| exact consistent_doSkip h| exact consistent_doLook h
    | exact consistent_resetTo _ _ _ _
    | exact consistent_writeChain h _
    | exact consistent_of_eq h rfl rfl rfl

theorem consistent_endTransaction {s : State} (h : s.HeadConsistent) k {bus act}
    (ha : ∀ tx u, u.HeadConsistent → (act tx u).HeadConsistent) : (s.endTransaction k bus act).HeadConsistent := by
  simp only [State.endTransaction]; repeat' split
  · exact h
  · apply consistent_rest; apply ha; exact consistent_of_eq h rfl rfl rfl
  · apply consistent_rest
    unfold State.discard; split <;> exact consistent_of_eq h rfl rfl rfl
  · exact h

theorem consistent_endBuilderRead {s : State} (h : s.HeadConsistent) k {act}
    (ha : ∀ u, u.HeadConsistent → (act u).HeadConsistent) : (s.endBuilderRead k act).HeadConsistent :=
  consistent_endTransaction h k (fun _ u hu => by split; exacts [ha _ (consistent_of_eq hu rfl rfl rfl), hu])

theorem consistent_skipRecord {s : State} (h : s.HeadConsistent) r : (s.skipRecord r).HeadConsistent := by
  unfold State.skipRecord; split <;> exact consistent_of_eq h rfl rfl rfl

theorem consistent_linkRead {s : State} (h : s.HeadConsistent) r : (s.linkRead r).HeadConsistent := by
  unfold State.linkRead; repeat' split
  all_goals first | exact h | exact consistent_chainFault h _ | exact consistent_of_eq h (by simp) (by simp) (by simp)

theorem consistent_stateRead {s : State} (h : s.HeadConsistent) r : (s.stateRead r).HeadConsistent := by
  unfold State.stateRead; repeat' split
  all_goals first
    | exact h
    | exact consistent_chainFault h _
    | exact consistent_skipRecord h _
    | exact consistent_of_eq h (by simp) (by simp) (by simp)

theorem consistent_headerRead {s : State} (h : s.HeadConsistent) r : (s.headerRead r).HeadConsistent := by
  unfold State.headerRead; repeat' split
  all_goals first | exact h | exact consistent_chainFault h _ | exact consistent_of_eq h (by simp) (by simp) (by simp)

theorem consistent_take {s : State} (h : s.HeadConsistent) r g : (s.take r g).HeadConsistent := by
  unfold State.take State.takeFaulted State.takeValid
  repeat' split
  all_goals exact consistent_of_eq h (by simp) (by simp) (by simp)

theorem consistent_exchangeDone {s : State} (h : s.HeadConsistent) r : (s.exchangeDone r).HeadConsistent := by
  unfold State.exchangeDone; repeat' split
  all_goals first
    | exact h
    | exact consistent_chainFault h _
    | exact consistent_take h _ _
    | exact consistent_skipRecord h _
    | exact consistent_of_eq h (by simp) (by simp) (by simp)

theorem consistent_onBus {s : State} (h : s.HeadConsistent) r : (s.onBus r).HeadConsistent := consistent_of_eq h rfl
    rfl rfl

theorem consistent_resultWritten {s : State} (h : s.HeadConsistent) t r : (s.resultWritten t r).HeadConsistent := by
  unfold State.resultWritten; split
  · exact consistent_chainFault (consistent_onBus h _) _
  · exact consistent_of_eq h rfl rfl rfl

theorem consistent_stateUpdated {s : State} (h : s.HeadConsistent) t r : (s.stateUpdated t r).HeadConsistent := by
  unfold State.stateUpdated State.completed State.completionAttention; repeat' split
  all_goals first
    | exact h
    | exact consistent_chainFault (consistent_onBus h _) _
    | exact consistent_chainFault h _
    | exact consistent_of_eq h rfl rfl rfl

theorem consistent_releaseDone {s : State} (h : s.HeadConsistent) t r : (s.releaseDone t r).HeadConsistent := by
  unfold State.releaseDone; split
  · exact consistent_chainFault (consistent_onBus h _) _
  · apply consistent_of_eq h <;> simp [State.onBus]

theorem consistent_orStay {s : State} {o : Option State} (h : s.HeadConsistent)
    (ho : ∀ t, o = some t → t.HeadConsistent) : (s.orStay o).HeadConsistent := by
  unfold State.orStay; split
  · exact h
  · exact consistent_rest (ho _ rfl)

theorem consistent_beginPeriod {s : State} (h : s.HeadConsistent) (r : s.head.state = .ready) :
    s.beginPeriod.HeadConsistent := by
  simp only [State.beginPeriod, State.startTickleShift]; repeat' split
  all_goals first | exact h | exact consistent_beginShift h r (by simp)

/-- After the loss of a shift no shift is in flight, and the head state is as before. -/
theorem shiftLost_head {s : State} (h : s.HeadConsistent) : s.shiftLost.HeadConsistent ∧
    s.shiftLost.head.shift = .idle ∧ s.shiftLost.head.state = s.head.state :=
  shiftLost_keeps (P := fun t => t.HeadConsistent ∧ t.head.shift = .idle ∧ t.head.state = s.head.state)
    (fun _ _ k e => by
      obtain ⟨a, b, -⟩ := tryHead_head e
      exact ⟨consistent_tryHead k.1 e, a.trans k.2.1, b.trans k.2.2⟩)
    ⟨consistent_abortShift h, by simp, by simp⟩

theorem consistent_loseHead {s : State} (h : s.HeadConsistent) (a : s.head.state.attached = true) :
    s.loseHead.HeadConsistent := by
  obtain ⟨⟨c1, c2, c3, c4, c5, c6, c7, c8, c9⟩, h2, h3⟩ := shiftLost_head h
  have : s.ctl.engine.resting = false := by
    by_contra hc; have := h.off (by simpa using hc); simp_all [HeadState.attached]
  constructor <;> simp_all [State.loseHead, State.stopHeadTimers, State.tickleOff, State.setHead, State.printOut]

end Sys2Proof.Machine
end

