-- ==== Sys2Proof/Laws/Jobs.lean ====
section
/-! SUPPORT. What the shared operations do to the job slots: changes of a job, counts, purges and job faults. -/

namespace Sys2Proof.Machine

theorem job_def (s : State) (x : SlotId) : s.job x = s.slots.get x := rfl

/-- The job in a slot depends on the slots alone. -/
theorem job_congr {s t : State} (h : t.slots = s.slots) (x) : t.job x = s.job x := by simp [State.job, h]

/-- What a slot holds after a change of one slot. -/
theorem get_put (t : Slots) (x y : SlotId) (j) : (t.put x j).get y = if y = x then j else t.get y := by
  cases x <;> cases y <;> simp [Slots.put, Slots.get]

/-- The job in a slot after a change of the job in one slot. -/
theorem job_mapJob (s : State) (x y : SlotId) (f : Job → Job) :
    (s.mapJob x f).job y = if y = x then (s.job x).map f else s.job y := by
  unfold State.mapJob; split
  · rename_i e; split
    · subst y; simp [e]
    · rfl
  · rename_i e; simp only [job_def] at *; simp only [get_put]; split <;> simp_all

/-- A change of a job changes the slots alone. -/
theorem mapJob_eq (s : State) (x) (f : Job → Job) : s.mapJob x f =
    { s with slots := match s.slots.get x with | none => s.slots | some j => s.slots.put x (some (f j)) } := by
  unfold State.mapJob State.job; cases h : s.slots.get x <;> rfl

/-- Whose row is being shifted depends on the shift alone. -/
theorem shifting_congr {s t : State} (h : t.head.shift = s.head.shift) (x) : t.shifting x = s.shifting x :=
    by simp [State.shifting, h]

/-- The job in a slot after rows are discarded. -/
theorem discardRows_job (s : State) (x y n) : (s.discardRows x n).job y = if y = x then (s.job x).map
    (fun j => { j with account := { j.account with discarded := j.account.discarded + n } }) else s.job y := by
  unfold State.discardRows; rw [job_mapJob]

/-- A purge leaves the items of the other job (R44). -/
theorem purge_queue (s : State) (x) : (s.purge x).queue = s.queue.filter fun it => it.slot != x :=
    by simp [State.purge]

/-- No ROW of a purged job is left. -/
theorem countP_filter_self (l : List Item) (x) : (l.filter fun it => it.slot != x).countP (Item.isRowOf x) = 0 := by
  rw [List.countP_eq_zero]; intro it hi; simp at hi; cases it <;> simp_all [Item.isRowOf, Item.slot]

/-- Every ROW of the other job is left. -/
theorem countP_filter_other (l : List Item) {x y} (h : y ≠ x) : (l.filter fun it => it.slot != x).countP
    (Item.isRowOf y) = l.countP (Item.isRowOf y) := by
  rw [List.countP_filter]; apply List.countP_congr; intro it hi
  cases it <;> simp_all [Item.isRowOf, Item.slot]

/-- The job in a slot after a purge. -/
theorem purge_job (s : State) (x y) : (s.purge x).job y = if y = x then (s.job x).map
    (fun j => { j with account := { j.account with discarded := j.account.discarded + s.rowsQueued x } }) else s.job y
    := by
  rw [← discardRows_job]; rfl

/-- The job in a slot after the builder abandons one. -/
theorem abandon_job (s : State) (x y) : (s.abandon x).job y = if y = x then (s.job x).map
    (fun j => { j with phase := .built }) else s.job y := by
  unfold State.abandon; rw [show ∀ u : State, u.oweLook.job y = u.job y from fun u => rfl, job_mapJob]; rfl

/-- The builder is FREE after it abandons a job (R23). -/
theorem abandon_builder (s : State) (x) : ∃ o, (s.abandon x).builder = { Builder.reset with orphan := o } := by
  simp [State.abandon]

/-- What a job fault does, all of it (R139, R44, R23, R86). -/
structure FaultSpec (s t : State) (x : SlotId) (c : FaultCode) (e : Nat) : Prop where
  job : ∃ j, s.job x = some j ∧ j.fault = none ∧ j.phase ≠ .completing ∧
    t.job x = some
        { j with
          fault := some (c, e)
          phase := if s.builder.job = some x then .built else j.phase
          account := { j.account with discarded := j.account.discarded + s.rowsQueued x } }
  other : ∀ y, y ≠ x → t.job y = s.job y
  queue : t.queue = s.queue.filter fun it => it.slot != x
  builder : if s.builder.job = some x then ∃ o, t.builder = { Builder.reset with orphan := o } else t.builder =
      s.builder
  print : t.firing.print = .into → s.firing.print = .into
  stage : t.walker.stage = s.walker.stage

/-- A fault that is taken does what R139 says. -/
theorem takeFault_spec {s : State} {x} (h : s.faultable x = true) (c e) : FaultSpec s (s.takeFault x c e) x c e := by
  have hj : ∃ j, s.job x = some j ∧ j.fault = none ∧ j.phase ≠ .completing := by
    unfold State.faultable at h; split at h <;> simp_all
  obtain ⟨j, hj, hf, hp⟩ := hj
  simp only [State.takeFault, h, if_true]
  have hq : (s.mapJob x fun j => { j with fault := some (c, e) }).rowsQueued x = s.rowsQueued x := by
    simp [State.rowsQueued]
  constructor
  · refine ⟨j, hj, hf, hp, ?_⟩
    repeat' split
    all_goals simp_all [show ∀ u : State, u.printOut.job x = u.job x from fun u => rfl, abandon_job, purge_job,
        job_mapJob]
  · intro y hy
    repeat' split
    all_goals simp_all [show ∀ u : State, u.printOut.job y = u.job y from fun u => rfl, abandon_job, purge_job,
        job_mapJob]
  · repeat' split
    all_goals simp_all [purge_queue]
  · repeat' split
    all_goals first | (simp_all; done) | skip
    all_goals first | exact abandon_builder _ _ | (simp; exact abandon_builder _ _)
  · repeat' split
    all_goals simp_all
  · repeat' split
    all_goals simp_all [State.abandon]

/-- A fault that is not taken changes nothing. -/
theorem takeFault_no {s : State} {x} (h : s.faultable x = false) (c e) : s.takeFault x c e = s :=
    by simp [State.takeFault, h]

/-- A held job with no fault, not COMPLETING, takes a fault. -/
theorem faultable_of {s : State} {x j} (e : s.job x = some j) (f : j.fault = none) (p : j.phase ≠ .completing) :
    s.faultable x = true := by
  unfold State.faultable; rw [e]; simp [f, p]

/-- A job that carries a fault takes no other (R139). -/
theorem takeFault_none {s : State} {x j} (c n) (e : s.job x = some j) (h : j.fault ≠ none) : s.takeFault x c n = s :=
    by
  unfold State.takeFault; rw [if_neg]; unfold State.faultable; rw [e]; cases k : j.fault <;> simp_all

/-- The counting job depends on the slots alone. -/
theorem countingJob_congr {s t : State} (h : t.slots = s.slots) : t.countingJob = s.countingJob := by
  have hc : ∀ x, t.counts x = s.counts x := fun x => by unfold State.counts; rw [job_congr h]
  unfold State.countingJob; rw [h]; simp only [hc]

/-- Whether a job takes a fault depends on the slots alone. -/
theorem faultable_congr {s t : State} (h : t.slots = s.slots) (x) : t.faultable x = s.faultable x := by
  simp [State.faultable, State.job, h]

/-- The counting job is not COMPLETING (R69). -/
theorem counting_phase {s : State} {x j} (h : s.countingJob = some x) (e : s.job x = some j) : j.phase ≠ .completing
    := by
    unfold State.countingJob at h; split at h
    · cases h
    · unfold State.counts at h; repeat' split at h
      all_goals simp_all

/-- the product start and the width touch slots only by counts -/
theorem countIn_job (s : State) (f : Counts → Counts) (x) : (s.countIn f).job x = if s.countingJob = some x then
    (s.job x).map (fun j => { j with counts := f j.counts }) else s.job x := by
  unfold State.countIn; split
  · rename_i e; simp [e]
  · rename_i y e; unfold State.mapCounts; rw [job_mapJob, e]; simp only [Option.some.injEq]
    by_cases h : x = y
    · simp [h]
    · simp [h, Ne.symm h]

/-- A count changes no phase. -/
theorem counts_countIn (s : State) (f x) : (s.countIn f).counts x = s.counts x := by
  have : (s.countIn f).job x = s.job x ∨ ∃ j, s.job x = some j ∧ (s.countIn f).job x = some
      { j with counts := f j.counts } := by
    rw [countIn_job]; split
    · cases s.job x <;> simp
    · simp
  unfold State.counts; rcases this with h | ⟨j, h, h'⟩
  · rw [h]
  · rw [h, h']

/-- A count leaves the order of the jobs. -/
theorem countIn_slots_oldest (s : State) (f) : (s.countIn f).slots.oldest = s.slots.oldest := by
  have h0 := countIn_job s f .slot0
  have h1 := countIn_job s f .slot1
  have ho : (s.countIn f).slots.older = s.slots.older := by
    unfold State.countIn State.mapCounts State.mapJob; repeat' split
    · rfl
    · rfl
    · simp only [Slots.put]; split <;> rfl
  have e0 : (s.countIn f).slots.slot0.isSome = s.slots.slot0.isSome := by
    have := congrArg Option.isSome h0; simp only [State.job, Slots.get] at this; rw [this];
        split <;> cases s.slots.slot0 <;> rfl
  have e1 : (s.countIn f).slots.slot1.isSome = s.slots.slot1.isSome := by
    have := congrArg Option.isSome h1; simp only [State.job, Slots.get] at this; rw [this];
        split <;> cases s.slots.slot1 <;> rfl
  unfold Slots.oldest
  rcases a : (s.countIn f).slots.slot0 <;> rcases b : (s.countIn f).slots.slot1 <;> rcases c : s.slots.slot0
      <;> rcases d : s.slots.slot1 <;> simp_all

/-- A count leaves the counting job. -/
theorem countingJob_countIn (s : State) (f) : (s.countIn f).countingJob = s.countingJob := by
  unfold State.countingJob; rw [countIn_slots_oldest]; simp only [counts_countIn]

/-- A count takes and frees no job. -/
theorem countIn_isSome (s : State) (f x) : ((s.countIn f).job x = none) ↔ s.job x = none := by
  rw [countIn_job]; split <;> simp

/-- A count keeps every counter its function keeps. -/
theorem countIn_keeps {α} (g : Counts → α) (f : Counts → Counts) (hg : ∀ c, g (f c) = g c) (s : State) {x j}
    (e : s.job x = some j) :
    ∃ j', (s.countIn f).job x = some j' ∧ g j'.counts = g j.counts := by
  rw [countIn_job]; split
  · exact ⟨_, by rw [e]; rfl, hg _⟩
  · exact ⟨j, e, rfl⟩

/-- What a count does to the counting job. -/
theorem countIn_hits (f : Counts → Counts) (s : State) {x j} (c : s.countingJob = some x) (e : s.job x = some j) :
    (s.countIn f).job x = some { j with counts := f j.counts } := by
  rw [countIn_job, if_pos c, e]; rfl

/-- A count leaves every other job. -/
theorem countIn_misses (f : Counts → Counts) (s : State) {x} (c : s.countingJob ≠ some x) :
    (s.countIn f).job x = s.job x := by
  rw [countIn_job, if_neg c]

/-- A count changes the slots alone. -/
theorem countIn_eq (s : State) (f) : s.countIn f = { s with slots := (s.countIn f).slots } := by
  unfold State.countIn; split
  · rfl
  · unfold State.mapCounts; rw [mapJob_eq]

/-- The other slot is another slot. -/
theorem otherSlot_ne (x) : otherSlot x ≠ x := by cases x <;> simp [otherSlot]

end Sys2Proof.Machine
end

