-- ==== Sys2Proof/Laws/Links.lean ====
section
/-! SUPPORT. The shared operations and the builder keep the held jobs and the account of rows in order (`State.Linked`). -/

namespace Sys2Proof.Machine

theorem linked_of_eq {s t : State} (h : s.Linked) (q : t.queue = s.queue) (j : t.slots = s.slots)
    (b : t.builder = s.builder)
   (sh : t.head.shift = s.head.shift) (w : t.writer.list = s.writer.list) (g : t.walker.stage = s.walker.stage)
   (r : t.ctl.engine.resting = true → s.ctl.engine.resting = true)
   (m : t.tracker.marks = s.tracker.marks) (p : t.firing.print = .into → s.firing.print = .into)
       (hs : s.head.state = .off → t.head.state = .off) : t.Linked := by
  have jj := job_congr j
  have ss := shifting_congr sh
  have wk : ∀ y, t.working y ↔ s.working y := fun y => by simp [State.working, jj]
  obtain ⟨h1,h2,h3,h4,h5,h6,h7,h8,h9,h10,h11,h12,h13,h14⟩ := h
  constructor
  · rw [q]; intro it hi; rw [wk]; exact h1 it hi
  · rw [q]; exact h2
  · rw [q, b]; exact h3
  · rw [b]; intro y hy; rw [wk, jj]; exact h4 y hy
  · rw [b]; exact h5
  · intro y jb; rw [jj, b]; exact h6 y jb
  · rw [b]; exact h7
  · rw [b]; exact h8
  · intro y; rw [ss, jj]; exact h9 y
  · rw [w]; refine ⟨h10.1, fun y => ?_⟩; rw [jj]; exact h10.2 y
  · rw [g, b]; exact h11
  · intro y jb; simp only [State.rowsQueued, State.rowsShifting, jj, ss, q]; exact h12 y jb
  · intro y jb; rw [jj]; exact h13 y jb
  · intro hr
    have := h14 (r hr)
    rw [q, m, j, g]
    refine ⟨this.1, this.2.1, this.2.2.1, this.2.2.2.1, ?_, hs this.2.2.2.2.2.1, this.2.2.2.2.2.2⟩
    cases hp : t.firing.print
    · rfl
    · have h9 := p hp; rw [this.2.2.2.2.1] at h9; cases h9

/-- a change of one job that keeps phase, fault, account, rowsFired -/
theorem linked_mapJob {s : State} (h : s.Linked) x f
    (hf : ∀ j, (f j).phase = j.phase ∧ (f j).fault = j.fault ∧ (f j).account = j.account ∧ (f j).counts.rowsFired =
    j.counts.rowsFired) :
   (s.mapJob x f).Linked := by
  have ss : ∀ y, (s.mapJob x f).shifting y = s.shifting y := fun y => shifting_congr (by simp) y
  have wk : ∀ y, (s.mapJob x f).working y ↔ s.working y := by
    intro y; unfold State.working; rw [job_mapJob]; split
    · subst y; cases hj : s.job x <;> simp [hf]
    · rfl
  have jb : ∀ y j, (s.mapJob x f).job y = some j → ∃ j',
      s.job y = some j' ∧ j.phase = j'.phase ∧ j.fault = j'.fault ∧ j.account = j'.account ∧ j.counts.rowsFired =
      j'.counts.rowsFired := by
    intro y j; rw [job_mapJob]; split
    · subst y; cases hj : s.job x <;> simp; rintro rfl; simp [hf]
    · intro e; exact ⟨j, e, by simp⟩
  have jb2 : ∀ y j', s.job y = some j' → ∃ j, (s.mapJob x f).job y = some j ∧ j.phase = j'.phase := by
    intro y j' e; rw [job_mapJob]; split
    · subst y; simp [e, hf]
    · exact ⟨j', e, rfl⟩
  obtain ⟨h1,h2,h3,h4,h5,h6,h7,h8,h9,h10,h11,h12,h13,h14⟩ := h
  constructor
  · simpa [wk] using h1
  · simpa using h2
  · simpa using h3
  · intro y hy; rw [wk]; simp at hy; refine ⟨(h4 y hy).1, fun j e => ?_⟩
    obtain ⟨j', e', hp, -⟩ := jb _ _ e; rw [hp]; exact (h4 y hy).2 _ e'
  · simpa using h5
  · intro y j e hp; obtain ⟨j', e', hp', -⟩ := jb _ _ e; simpa using h6 y j' e' (hp' ▸ hp)
  · simpa using h7
  · simpa using h8
  · intro y; rw [ss]; intro hy; obtain ⟨j', e, hp⟩ := h9 y hy; obtain ⟨j, e', hp'⟩ := jb2 _ _ e;
        exact ⟨j, e', hp' ▸ hp⟩
  · refine ⟨by simpa using h10.1, fun y => ?_⟩
    simp only [mapJob_frame]; rw [h10.2]
    constructor
    · rintro ⟨j', e, hp⟩; obtain ⟨j, e', hp'⟩ := jb2 _ _ e; exact ⟨j, e', hp' ▸ hp⟩
    · rintro ⟨j, e, hp⟩; obtain ⟨j', e', hp', -⟩ := jb _ _ e; exact ⟨j', e', hp' ▸ hp⟩
  · simpa using h11
  · intro y j e; obtain ⟨j', e', -, -, ha, -⟩ := jb _ _ e; rw [ha];
        simpa [State.rowsQueued, State.rowsShifting, ss] using h12 y j' e'
  · intro y j e; obtain ⟨j', e', -, -, ha, hr⟩ := jb _ _ e; rw [ha, hr]; exact h13 y j' e'
  · intro hr; have := h14 (by simpa using hr)
    have e0 : s.mapJob x f = s := by
      unfold State.mapJob; split
      · rfl
      · rename_i e; exfalso; cases x <;> simp_all [State.job, Slots.get]
    rw [e0]; exact this

theorem linked_takeFault {s : State} (h : s.Linked) x c e : (s.takeFault x c e).Linked := by
  cases hf : s.faultable x
  · rw [takeFault_no hf]; exact h
  have sp := takeFault_spec hf c e
  obtain ⟨⟨j, hj, hjf, hjp, hjt⟩, ho, hq, hb, hpr, hst⟩ := sp
  have fr := takeFault_frame s x c e
  have ss : ∀ y, (s.takeFault x c e).shifting y = s.shifting y := fun y => shifting_congr (by simp) y
  have wk : ∀ y, y ≠ x → ((s.takeFault x c e).working y ↔ s.working y) := fun y hy => by simp [State.working, ho y hy]
  have hbj : ∀ y, (s.takeFault x c e).builder.job = some y → s.builder.job = some y ∧ y ≠ x ∧
      (s.takeFault x c e).builder = s.builder := by
    intro y hy; split at hb
    · obtain ⟨o, hb⟩ := hb; rw [hb] at hy; simp [Builder.reset] at hy
    · rename_i hne; rw [hb] at hy; exact ⟨hy, by rintro rfl; exact hne hy, hb⟩
  obtain ⟨h1,h2,h3,h4,h5,h6,h7,h8,h9,h10,h11,h12,h13,h14⟩ := h
  constructor
  · intro it hit; rw [hq] at hit; simp at hit; rw [wk _ hit.2]; exact h1 _ hit.1
  · rw [hq]; exact h2.filter _
  · intro y hy hbb; rw [hq] at hy; simp at hy; exact h3 y hy.1 (hbj y hbb).1
  · intro y hy; have := hbj y hy; rw [wk _ this.2.1, ho _ this.2.1]; exact h4 y this.1
  · intro hn; obtain ⟨y, hy⟩ := Option.ne_none_iff_exists'.mp hn; have := hbj y hy; rw [this.2.2];
        exact h5 (by simp [this.1])
  · intro y j' hj' hp
    by_cases hyx : y = x
    · subst hyx; rw [hjt] at hj'; cases hj'; simp at hp
      split at hp
      · cases hp
      · exact absurd (h6 y j hj hp) ‹_›
    · rw [ho _ hyx] at hj'; have := h6 y j' hj' hp
      split at hb
      · rename_i hx; rw [this] at hx; cases hx; exact absurd rfl hyx
      · rw [hb]; exact this
  · intro hn; split at hb
    · obtain ⟨o, hb⟩ := hb; rw [hb]; simp [Builder.reset]
    · rw [hb] at hn ⊢; exact h7 hn
  · intro it hit; split at hb
    · obtain ⟨o, hb⟩ := hb; rw [hb] at hit; simp [Builder.reset] at hit
    · rw [hb] at hit ⊢; exact h8 it hit
  · intro y; rw [ss]; intro hy; by_cases hyx : y = x
    · subst hyx; obtain ⟨j', e1, e2⟩ := h9 y hy; rw [hjt]; refine ⟨_, rfl, ?_⟩; simp; split <;> simp_all
    · rw [ho _ hyx]; exact h9 y hy
  · refine ⟨by simpa using h10.1, fun y => ?_⟩
    simp only [takeFault_frame]; rw [h10.2]
    by_cases hyx : y = x
    · subst hyx; rw [hjt, hj]; constructor
      · rintro ⟨_, ⟨⟩, hp⟩; exact absurd hp hjp
      · rintro ⟨_, ⟨⟩, hp⟩; simp at hp; split at hp <;> simp_all
    · rw [ho _ hyx]
  · rw [hst]; intro a b; have := h11 a b; split at hb
    · simp_all
    · rw [hb]; exact this
  · intro y j' hj'
    by_cases hyx : y = x
    · subst hyx; rw [hjt] at hj'; cases hj'
      have := h12 y j hj
      simp only [State.rowsQueued, State.rowsShifting, hq, ss, countP_filter_self] at *
      omega
    · rw [ho _ hyx] at hj'; have := h12 y j' hj'
      simp only [State.rowsQueued, State.rowsShifting, hq, ss, countP_filter_other _ hyx] at *
      omega
  · intro y j' hj'
    by_cases hyx : y = x
    · subst hyx; rw [hjt] at hj'; cases hj'; exact h13 y j hj
    · rw [ho _ hyx] at hj'; exact h13 y j' hj'
  · intro hr; have := h14 (by simpa using hr)
    exfalso; cases x <;> simp_all [State.job, Slots.get]

theorem linked_faultBuilding {s : State} (h : s.Linked) c e : (s.faultBuilding c e).Linked := by
  unfold State.faultBuilding; split
  · exact h
  · exact linked_takeFault h _ _ _

theorem linked_faultCounting {s : State} (h : s.Linked) c : (s.faultCounting c).Linked := by
  unfold State.faultCounting; split
  · exact h
  · exact linked_takeFault h _ _ _

/-- general change of everything but queue, slots and the shift -/
theorem linked_frame {s t : State} (h : s.Linked) (q : t.queue = s.queue) (j : t.slots = s.slots)
    (sh : t.head.shift = s.head.shift)
   (b : t.builder = s.builder ∨ (t.builder.job = s.builder.job ∧ s.builder.job ≠ none ∧ t.builder.state ≠ .free ∧
       t.builder.held = none))
   (w : (t.writer.list.filterMap WriteTask.slot).Perm (s.writer.list.filterMap WriteTask.slot))
   (g : t.walker.stage ≠ .none → t.walker.stage ≠ .discarding → s.builder.job = none)
   (r : t.ctl.engine.resting = true → s.ctl.engine.resting = true ∧ t.walker.stage = .none ∧ t.tracker.marks = [] ∧
       t.firing.print = .out ∧ t.head.state = .off) : t.Linked := by
  have jj := job_congr j
  have ss := shifting_congr sh
  have wk : ∀ y, t.working y ↔ s.working y := fun y => by simp [State.working, jj]
  have bj : t.builder.job = s.builder.job := by rcases b with b | b; rw [b]; exact b.1
  obtain ⟨h1,h2,h3,h4,h5,h6,h7,h8,h9,h10,h11,h12,h13,h14⟩ := h
  constructor
  · rw [q]; intro it hi; rw [wk]; exact h1 it hi
  · rw [q]; exact h2
  · rw [q, bj]; exact h3
  · rw [bj]; intro y hy; rw [wk, jj]; exact h4 y hy
  · rw [bj]; rcases b with b | b
    · rw [b]; exact h5
    · exact fun _ => b.2.2.1
  · intro y jb; rw [jj, bj]; exact h6 y jb
  · rw [bj]; rcases b with b | b
    · rw [b]; exact h7
    · exact fun hn => absurd hn b.2.1
  · rcases b with b | b
    · rw [b]; exact h8
    · intro it hi; rw [b.2.2.2] at hi; cases hi
  · intro y; rw [ss, jj]; exact h9 y
  · refine ⟨w.nodup_iff.mpr h10.1, fun y => ?_⟩; rw [w.mem_iff, jj]; exact h10.2 y
  · rw [bj]; exact g
  · intro y jb; simp only [State.rowsQueued, State.rowsShifting, jj, ss, q]; exact h12 y jb
  · intro y jb; rw [jj]; exact h13 y jb
  · intro hr
    obtain ⟨r1, r2, r3, r4, r5⟩ := r hr
    have := h14 r1
    rw [q, j]
    exact ⟨this.1, r3, this.2.2.1, this.2.2.2.1, r4, r5, r2⟩

theorem linked_mapBuilder {s : State} (h : s.Linked) {f : Builder → Builder} (a : (f s.builder).job = s.builder.job)
    (n : s.builder.job ≠ none) (st : (f s.builder).state ≠ .free) (hd : (f s.builder).held = none) :
    (s.mapBuilder f).Linked :=
  linked_frame h rfl rfl rfl (.inr ⟨a, n, st, hd⟩) (List.Perm.refl _) h.looking
    fun r => ⟨r, (h.resting r).2.2.2.2.2.2, (h.resting r).2.1, (h.resting r).2.2.2.2.1, (h.resting r).2.2.2.2.2.1⟩

theorem linked_port {s : State} (h : s.Linked) p : State.Linked { s with port := p } :=
  linked_of_eq h rfl rfl rfl rfl rfl rfl id rfl id id

theorem linked_printOut {s : State} (h : s.Linked) : s.printOut.Linked :=
  linked_of_eq h rfl rfl rfl rfl rfl rfl id rfl (fun h => by cases h) id

theorem linked_raise {s : State} (h : s.Linked) f : (s.raise f).Linked :=
  linked_of_eq h rfl rfl rfl rfl rfl rfl id rfl id id

theorem linked_oweLook {s : State} (h : s.Linked) : s.oweLook.Linked :=
  linked_of_eq h rfl rfl rfl rfl rfl rfl id rfl id id

theorem linked_countIn {s : State} (h : s.Linked) (f : Counts → Counts) (hf : ∀ c, (f c).rowsFired = c.rowsFired) :
    (s.countIn f).Linked := by
  unfold State.countIn State.mapCounts; split
  · exact h
  · exact linked_mapJob h _ _ (fun j => ⟨rfl, rfl, rfl, hf _⟩)

/-! ### Conditions of a busy builder -/

def Engaged (s : State) : Prop := s.builder.job ≠ none ∧ s.builder.held = none

theorem linked_walkOn {s : State} (h : s.Linked) (b : Engaged s) t : (s.walkOn t).Linked := linked_mapBuilder h rfl
    b.1 (by simp) b.2

theorem linked_walkAt {s : State} (h : s.Linked) (b : Engaged s) t : (s.walkAt t).Linked := linked_mapBuilder h rfl
    b.1 (by simp) b.2

theorem linked_walkAtWith {s : State} (h : s.Linked) (b : Engaged s) t c : (s.walkAtWith t c).Linked :=
  linked_mapBuilder (f := fun b => { b with stack := c, state := .walking, task := .entry, index := t }) h rfl b.1
      (by simp) b.2

theorem linked_requestRead {s : State} (h : s.Linked) (b : Engaged s) k a n : (s.requestRead k a n).Linked := by
  simp only [State.requestRead]; split
  · exact linked_mapBuilder h rfl b.1 (by simp) b.2
  · have := linked_mapBuilder h (f := fun b => { b with state := .fetching, want := none }) rfl b.1 (by simp) b.2
    exact linked_port this _

theorem linked_waitStage {s : State} (h : s.Linked) (b : Engaged s) :
    (s.mapBuilder fun b => { b with state := .waitStage }).Linked :=
  linked_mapBuilder h rfl b.1 (by simp) b.2

theorem linked_startTable {s : State} (h : s.Linked) (b : Engaged s) a : (s.startTable a).Linked := by
  unfold State.startTable; split
  · exact linked_waitStage h b
  · exact linked_requestRead h b _ _ _

theorem linked_startSetupBlock {s : State} (h : s.Linked) (b : Engaged s) : (s.startSetupBlock).Linked := by
  unfold State.startSetupBlock; split
  · exact linked_waitStage h b
  · exact linked_requestRead h b _ _ _

theorem linked_endWalk {s : State} (h : s.Linked) (b : Engaged s) i : (s.endWalk i).Linked := by
  unfold State.endWalk; split
  · exact linked_walkOn h b _
  · exact linked_faultBuilding h _ _

theorem linked_endBuilding {s : State} (h : s.Linked) {x} (hb : s.builder.job = some x) : s.endBuilding.Linked := by
  unfold State.endBuilding; simp only [hb]
  apply linked_oweLook
  set u : State := { s with builder := { Builder.reset with orphan := s.builder.orphan } } with hu
  have ju : ∀ y, (u.mapJob x fun j => { j with phase := .built }).job y = if y = x then (s.job x).map
      (fun j => { j with phase := .built }) else s.job y := fun y => by
    rw [job_mapJob]; rfl
  have ss : ∀ y, (u.mapJob x fun j => { j with phase := .built }).shifting y = s.shifting y := fun y => shifting_congr
      (by simp; rfl) y
  obtain ⟨h1,h2,h3,h4,h5,h6,h7,h8,h9,h10,h11,h12,h13,h14⟩ := h
  obtain ⟨⟨j, hj, hjp, hjf⟩, hjb⟩ := h4 x hb
  have hjb := hjb j hj
  have wk : ∀ y, s.working y → (u.mapJob x fun j => { j with phase := .built }).working y := by
    intro y ⟨j', e, p, f⟩; unfold State.working; rw [ju]; split
    · subst y; simp [hj, hjf]
    · exact ⟨j', e, p, f⟩
  have jc : ∀ y j', (u.mapJob x fun j => { j with phase := .built }).job y = some j' → ∃ j'',
      s.job y = some j'' ∧ j'.account = j''.account ∧ j'.counts = j''.counts ∧
      (j'.phase = .completing ↔ j''.phase = .completing) ∧ (j'.phase = .building → y ≠ x ∧ j' = j'') := by
    intro y j'; rw [ju]; split
    · subst y; rw [hj]; rintro ⟨⟩; refine ⟨j, rfl, rfl, rfl, ?_, ?_⟩ <;> simp [hjp]
    · rename_i hyx; intro e; exact ⟨j', e, rfl, rfl, Iff.rfl, fun _ => ⟨hyx, rfl⟩⟩
  constructor
  · intro it hi; exact wk _ (h1 it (by simpa using hi))
  · simpa using h2
  · intro y _; simp [hu, Builder.reset]
  · intro y; simp [hu, Builder.reset]
  · simp [hu, Builder.reset]
  · intro y j' hj' hp; obtain ⟨j'', e, -, -, -, hq⟩ := jc y j' hj'
    obtain ⟨hyx, rfl⟩ := hq hp; have := h6 y _ e hp; rw [hb] at this; cases this; exact absurd rfl hyx
  · simp [hu, Builder.reset]
  · simp [hu, Builder.reset]
  · intro y; rw [ss]; intro hy; obtain ⟨j', e, p⟩ := h9 y hy; rw [ju]; split
    · subst y; simp [hj]
    · exact ⟨j', e, p⟩
  · refine ⟨by simpa using h10.1, fun y => ?_⟩
    simp only [mapJob_frame, hu]; rw [h10.2]; constructor
    · rintro ⟨j', e, p⟩; rw [← hu, ju]; split
      · subst y; rw [hj] at e; cases e; exact absurd p hjp
      · exact ⟨j', e, p⟩
    · rintro ⟨j', e, p⟩; obtain ⟨j'', e', -, -, hq, -⟩ := jc y j' e; exact ⟨j'', e', hq.mp p⟩
  · simp [hu, Builder.reset]
  · intro y j' e; obtain ⟨j'', e', ha, -⟩ := jc y j' e; rw [ha];
        simpa [State.rowsQueued, State.rowsShifting, ss] using h12 y j'' e'
  · intro y j' e; obtain ⟨j'', e', ha, hc, -⟩ := jc y j' e; rw [ha, hc]; exact h13 y j'' e'
  · intro hr; have := h14 (by simpa using hr)
    exfalso; cases x <;> simp_all [State.job, Slots.get]

theorem linked_append {s : State} (h : s.Linked) {it : Item} (w : s.working it.slot)
    (he : ∀ y, Item.finish y ∈ s.queue → it.slot ≠ y)
   (hf : ∀ x, it = .finish x → s.builder.job ≠ some x) (hr : ∀ x r, it ≠ .row x r) : State.Linked
       { s with queue := s.queue ++ [it] } := by
  have ju : ∀ y, State.job { s with queue := s.queue ++ [it] } y = s.job y := fun _ => rfl
  have hc : ∀ y, List.countP (Item.isRowOf y) [it] = 0 := by
    intro y; cases it <;> simp [Item.isRowOf]
    exact absurd rfl (hr _ _)
  obtain ⟨h1,h2,h3,h4,h5,h6,h7,h8,h9,h10,h11,h12,h13,h14⟩ := h
  constructor
  · intro i hi; simp at hi; rcases hi with hi | rfl
    · exact h1 i hi
    · exact w
  · rw [List.pairwise_append]; refine ⟨h2, by simp, ?_⟩
    intro a ha b hb; simp at hb; subst hb; intro x hx; subst hx; exact he x ha
  · intro x hx; simp at hx; rcases hx with hx | hx
    · exact h3 x hx
    · exact hf x hx.symm
  · exact h4
  · exact h5
  · exact h6
  · exact h7
  · exact h8
  · exact h9
  · exact h10
  · exact h11
  · intro y j e; have := h12 y j e; simp only [State.rowsQueued, State.rowsShifting, List.countP_append, hc] at *;
        exact this
  · exact h13
  · intro hh; have := h14 hh; obtain ⟨j, e, -⟩ := w; exfalso; cases hs : it.slot <;> simp_all [State.job, Slots.get]

theorem linked_markStack {s : State} (h : s.Linked) (n : s.builder.job ≠ none) :
    (s.mapBuilder fun b => { b with stack := markEmitted b.stack, held := none }).Linked :=
  linked_mapBuilder h rfl n (h.busy n) rfl

theorem linked_enqueue {s : State} (h : s.Linked) {it : Item} (hb : s.builder.job = some it.slot)
    (hf : ∀ x, it ≠ .finish x) : (s.enqueue it).Linked := by
  have hw := (h.building _ hb).1
  have he : ∀ y, Item.finish y ∈ s.queue → it.slot ≠ y := fun y hy e => h.ended y hy (e ▸ hb)
  by_cases hr : ∀ x r, it ≠ .row x r
  · have hce : s.countEmitted it = s := by cases it <;> first | rfl | exact absurd rfl (hr _ _)
    have := linked_append (linked_markStack h (by simp [hb])) (it := it) hw he (fun x hx => absurd hx (hf x)) hr
    unfold State.enqueue; rw [hce]; exact this
  · push Not at hr; obtain ⟨x, r, rfl⟩ := hr
    have h := linked_markStack h (by simp [hb])
    have hb' : (s.mapBuilder fun b => { b with stack := markEmitted b.stack, held := none }).builder.job = some x :=
        hb
    have e0 : s.enqueue (.row x r) =
        { (s.mapBuilder fun b => { b with stack := markEmitted b.stack, held := none }).mapJob x fun j =>
            { j with account := { j.account with emitted := j.account.emitted + 1 } } with
          queue := s.queue ++ [.row x r] } := by
      simp only [State.enqueue, State.countEmitted, mapJob_frame]
      unfold State.mapJob
      rw [show (s.mapBuilder fun b => { b with stack := markEmitted b.stack, held := none }).job x = s.job x from rfl]
      split <;> rfl
    rw [e0]
    set u := (s.mapBuilder fun b => { b with stack := markEmitted b.stack, held := none }) with hu
    set f : Job → Job := fun j => { j with account := { j.account with emitted := j.account.emitted + 1 } } with hfd
    have ju : ∀ y, State.job { u.mapJob x f with queue := s.queue ++ [.row x r] } y = if y = x then (u.job x).map
        f else u.job y := fun y => job_mapJob u x y f
    have jc : ∀ y j', State.job { u.mapJob x f with queue := s.queue ++ [.row x r] } y = some j' → ∃ j'',
        u.job y = some j'' ∧ j'.phase = j''.phase ∧ j'.fault = j''.fault ∧ j'.counts = j''.counts ∧ j'.account.pulsed
        = j''.account.pulsed ∧ j'.account.discarded = j''.account.discarded ∧ j'.account.emitted = j''.account.emitted
        + (if y = x then 1 else 0) := by
      intro y j'; rw [ju]; split
      · subst y; intro e; simp only [Option.map_eq_some_iff] at e; obtain ⟨j, e, rfl⟩ := e;
            exact ⟨j, e, by simp [hfd]⟩
      · intro e; exact ⟨j', e, by simp⟩
    have jc2 : ∀ y j', u.job y = some j' → ∃ j'',
        State.job { u.mapJob x f with queue := s.queue ++ [.row x r] } y = some j'' ∧ j''.phase = j'.phase ∧ j''.fault
        = j'.fault := by
      intro y j' e; rw [ju]; split
      · subst y; simp [e, hfd]
      · exact ⟨j', e, rfl, rfl⟩
    have wk : ∀ y, u.working y → State.working { u.mapJob x f with queue := s.queue ++ [.row x r] } y := by
      rintro y ⟨j', e, p, q⟩; obtain ⟨j'', e2, p2, q2⟩ := jc2 y j' e; exact ⟨j'', e2, p2 ▸ p, q2 ▸ q⟩
    have ss : ∀ y, State.shifting { u.mapJob x f with queue := s.queue ++ [.row x r] } y = u.shifting y := fun y =>
        shifting_congr (by simp) y
    have hq : u.queue = s.queue := rfl
    obtain ⟨h1,h2,h3,h4,h5,h6,h7,h8,h9,h10,h11,h12,h13,h14⟩ := h
    constructor
    · intro i hi; simp at hi; rcases hi with hi | rfl
      · exact wk _ (h1 i hi)
      · exact wk _ hw
    · rw [List.pairwise_append]; refine ⟨h2, by simp, ?_⟩
      intro a ha b hbb; simp at hbb; subst hbb; intro y hy; subst hy; exact he y ha
    · intro y hy; simp at hy; simpa using h3 y hy
    · intro y hy; simp at hy; refine ⟨wk _ (h4 y hy).1, fun j' e => ?_⟩
      obtain ⟨j'', e2, p, -⟩ := jc y j' e; rw [p]; exact (h4 y hy).2 _ e2
    · simpa using h5
    · intro y j' e p; obtain ⟨j'', e2, p2, -⟩ := jc y j' e; simpa using h6 y j'' e2 (p2 ▸ p)
    · simpa using h7
    · simpa using h8
    · intro y; rw [ss]; intro hy; obtain ⟨j', e, p⟩ := h9 y hy; obtain ⟨j'', e2, p2, -⟩ := jc2 y j' e;
          exact ⟨j'', e2, p2 ▸ p⟩
    · refine ⟨by simpa using h10.1, fun y => ?_⟩
      have : (u.mapJob x f).writer = u.writer := by simp
      simp only [this]; rw [h10.2]; constructor
      · rintro ⟨j', e, p⟩; obtain ⟨j'', e2, p2, -⟩ := jc2 y j' e; exact ⟨j'', e2, p2 ▸ p⟩
      · rintro ⟨j', e, p⟩; obtain ⟨j'', e2, p2, -⟩ := jc y j' e; exact ⟨j'', e2, p2 ▸ p⟩
    · simpa using h11
    · intro y j' e; obtain ⟨j'', e2, -, -, -, a1, a2, a3⟩ := jc y j' e; have := h12 y j'' e2
      rw [a1, a2, a3, this]; simp only [State.rowsQueued, State.rowsShifting, ss, List.countP_append, hq]
      by_cases hyx : y = x
      · subst hyx; simp [Item.isRowOf]; omega
      · simp [Item.isRowOf, hyx]; intro hh; exact absurd hh.symm hyx
    · intro y j' e; obtain ⟨j'', e2, -, -, c, a1, -, -⟩ := jc y j' e; rw [c, a1]; exact h13 y j'' e2
    · intro hr; have := h14 (by simpa using hr)
      exfalso; obtain ⟨j, e, -⟩ := hw; cases hs : x <;> simp_all [State.job, Slots.get, Item.slot]

theorem linked_entered {s : State} (h : s.Linked) (b : Engaged s) t : (s.entered t).Linked := by
  obtain ⟨x, hx⟩ := Option.ne_none_iff_exists'.mp b.1
  unfold State.entered; repeat' split
  all_goals first | exact h | exact linked_walkAt h b _ | exact linked_walkOn h b _ | exact linked_endBuilding h hx

/-- an item enters the queue and the builder goes on -/
theorem linked_enterHeld {s : State} (h : s.Linked) {it : Item} (hb : s.builder.job = some it.slot)
    (hf : it = .finish it.slot → s.builder.task = .finish) : (s.enterHeld it).Linked := by
  unfold State.enterHeld
  by_cases hfin : ∃ x, it = .finish x
  · obtain ⟨x, rfl⟩ := hfin
    rw [hf rfl]
    have h1 := linked_endBuilding h hb
    have hbj : s.endBuilding.builder.job = none := by simp [State.endBuilding, hb, Builder.reset]
    have e0 : (s.enqueue (.finish x)).entered .finish =
        { s.endBuilding with queue := s.endBuilding.queue ++ [.finish x] } := by
      simp only [State.entered, State.enqueue, State.countEmitted, State.endBuilding]
      simp [hb]; unfold State.mapJob; simp only [State.job]; split <;> rfl
    rw [e0]
    apply linked_append h1
    · obtain ⟨⟨j, e, p, q⟩, -⟩ := h.building _ hb
      refine ⟨{ j with phase := .built }, ?_, by simp, q⟩
      simp only [State.endBuilding, hb, Item.slot]
      rw [show ∀ u : State, u.oweLook.job x = u.job x from fun _ => rfl, job_mapJob]
      have : State.job { s with builder := { Builder.reset with orphan := s.builder.orphan } } x = s.job x := rfl
      simp [this]; exact ⟨j, e, by simp⟩
    · intro y hy hyx; simp at hy; exact h.ended y hy (by rw [hb, hyx])
    · simp [hbj]
    · simp
  · push Not at hfin
    have := linked_enqueue h hb hfin
    apply linked_entered this
    simp [Engaged, State.enqueue, hb]

theorem linked_emit {s : State} (h : s.Linked) {it : Item} (hb : s.builder.job = some it.slot)
    (hf : it = .finish it.slot → s.builder.task = .finish) : (s.emit it).Linked := by
  unfold State.emit; split
  · exact linked_enterHeld h hb hf
  · have hn : s.builder.job ≠ none := by simp [hb]
    set t := s.mapBuilder fun b => { b with state := .waitRoom, held := some it } with ht
    have h0 : (s.mapBuilder fun b => { b with state := .waitRoom, held := none }).Linked := linked_mapBuilder h rfl hn
        (by simp) rfl
    obtain ⟨h1,h2,h3,h4,h5,h6,h7,h8,h9,h10,h11,h12,h13,h14⟩ := h0
    exact ⟨h1,h2,h3,h4,h5,h6, fun hh => absurd hh hn,
        fun i hi => by simp [ht] at hi; subst hi; exact ⟨rfl, hb, hf⟩,h9,h10,h11,h12,h13,h14⟩

theorem linked_tail {s : State} (h : s.Linked) {it rest} (e : s.queue = it :: rest) (hr : ∀ x r, it ≠ .row x r) :
    State.Linked { s with queue := s.queue.tail } := by
  have hc : ∀ y, Item.isRowOf y it = false := by
    intro y; cases it <;> simp [Item.isRowOf]
    exact absurd rfl (hr _ _)
  obtain ⟨h1,h2,h3,h4,h5,h6,h7,h8,h9,h10,h11,h12,h13,h14⟩ := h
  constructor
  · intro i hi; exact h1 i (List.mem_of_mem_tail hi)
  · exact h2.tail
  · intro x hx; exact h3 x (List.mem_of_mem_tail hx)
  · exact h4
  · exact h5
  · exact h6
  · exact h7
  · exact h8
  · exact h9
  · exact h10
  · exact h11
  · intro y j ej; have := h12 y j ej; simp only [State.rowsQueued, State.rowsShifting, e, List.tail_cons,
        List.countP_cons, hc] at this ⊢; simp at this; exact this
  · exact h13
  · intro hh; have := h14 hh; rw [e] at this; cases this.1

/-- a completion begins -/
theorem linked_complete {s : State} (h : s.Linked) {x j e} (hj : s.job x = some j) (hp : j.phase ≠ .completing)
    (hq : ∀ it ∈ s.queue, it.slot ≠ x)
   (hs : s.shifting x = false) (hb : s.builder.job ≠ some x) : ((s.completing x).addTask (.completion x e)).Linked :=
       by
  set t := (s.completing x).addTask (.completion x e) with ht
  have ju : ∀ y, t.job y = if y = x then (s.job x).map (fun j => { j with phase := .completing }) else s.job y := fun
      y => job_mapJob s x y _
  have ss : ∀ y, t.shifting y = s.shifting y := fun y => shifting_congr (by simp [ht]) y
  have wk : ∀ y, y ≠ x → (t.working y ↔ s.working y) := fun y hy => by simp [State.working, ju, hy]
  have ft : t.queue = s.queue ∧ t.builder = s.builder ∧ t.walker = s.walker ∧ t.ctl = s.ctl := by simp [ht]
  obtain ⟨f1, f2, f3, f4⟩ := ft
  obtain ⟨h1,h2,h3,h4,h5,h6,h7,h8,h9,h10,h11,h12,h13,h14⟩ := h
  constructor
  · rw [f1]; intro i hi; rw [wk _ (hq i hi)]; exact h1 i hi
  · rw [f1]; exact h2
  · rw [f1, f2]; exact h3
  · rw [f2]; intro y hy; have hyx : y ≠ x := by rintro rfl; exact hb hy
    rw [wk _ hyx, ju, if_neg hyx]; exact h4 y hy
  · rw [f2]; exact h5
  · rw [f2]; intro y j' ej p; rw [ju] at ej; split at ej
    · rw [hj] at ej; simp at ej; subst ej; simp at p
    · exact h6 y j' ej p
  · rw [f2]; exact h7
  · rw [f2]; exact h8
  · intro y; rw [ss]; intro hy; have hyx : y ≠ x := by rintro rfl; rw [hs] at hy; cases hy
    rw [ju, if_neg hyx]; exact h9 y hy
  · have hl : t.writer.list.filterMap WriteTask.slot = s.writer.list.filterMap WriteTask.slot ++ [x] := by
      simp [ht, WriteTask.slot, List.filterMap_append]
    rw [hl]
    have hx : x ∉ s.writer.list.filterMap WriteTask.slot := by
      rw [h10.2]; rintro ⟨j', ej, p⟩; rw [hj] at ej; cases ej; exact hp p
    refine ⟨?_, fun y => ?_⟩
    · rw [List.nodup_append]; refine ⟨h10.1, by simp, ?_⟩; intro a ha b hb'; simp at hb'; subst hb'; rintro rfl;
          exact hx ha
    · rw [List.mem_append, List.mem_singleton, ju]; split
      · subst y; simp [hj]
      · rename_i hyx; simp [hyx]; simpa using h10.2 y
  · rw [f2, f3]; exact h11
  · intro y j' ej; simp only [State.rowsQueued, State.rowsShifting, ss, f1]; rw [ju] at ej; split at ej
    · subst y; rw [hj] at ej; simp at ej; subst ej; exact h12 x j hj
    · exact h12 y j' ej
  · intro y j' ej; rw [ju] at ej; split at ej
    · subst y; rw [hj] at ej; simp at ej; subst ej; exact h13 x j hj
    · exact h13 y j' ej
  · rw [f4]; intro hh; have := h14 hh; exfalso; cases x <;> simp_all [State.job, Slots.get]

theorem linked_perm {s : State} (h : s.Linked) {w : Writer}
    (p : (w.list.filterMap WriteTask.slot).Perm (s.writer.list.filterMap WriteTask.slot)) : State.Linked
    { s with writer := w } :=
  linked_frame h rfl rfl rfl (.inl rfl) p h.looking
    fun r => ⟨r, (h.resting r).2.2.2.2.2.2, (h.resting r).2.1, (h.resting r).2.2.2.2.1, (h.resting r).2.2.2.2.2.1⟩

theorem linked_takeEnd {s : State} (h : s.Linked) {x rest} (e : s.queue = .finish x :: rest)
    (hs : s.shifting x = false) : (s.takeEnd x).Linked := by
  obtain ⟨j, ej, p, f⟩ := h.items (.finish x) (by simp [e])
  have h2 := h.ends; rw [e, List.pairwise_cons] at h2
  exact linked_complete (linked_tail h e (by simp)) ej p (fun it hi => h2.1 it (by simpa [e] using hi) x rfl) hs
      (h.ended x (by simp [e]))

theorem completionReady_spec {s : State} (h : s.Linked) {x} (r : s.completionReady x = true) :
   ∃ j, s.job x = some j ∧ j.phase ≠ .completing ∧ (∀ it ∈ s.queue, it.slot ≠ x) ∧ s.shifting x = false ∧
       s.builder.job ≠ some x := by
  unfold State.completionReady at r; split at r
  · cases r
  · rename_i j ej; simp at r; refine ⟨j, ej, r.1.1.1.2, ?_, r.2, r.1.1.2⟩
    rintro it hi rfl; obtain ⟨j', e', -, f⟩ := h.items it hi; rw [ej] at e'; cases e'; simp [f] at r

theorem linked_tryCompletion {s t : State} (h : s.Linked) {x} (e : s.tryCompletion x = some t) : t.Linked := by
  unfold State.tryCompletion at e; split at e <;> simp at e; subst e
  obtain ⟨j, e, p, q, r, b⟩ := completionReady_spec h ‹_›
  exact linked_complete h e p q r b

theorem linked_beginBoth {s : State} (h : s.Linked) (r0 : s.completionReady .slot0 = true)
    (r1 : s.completionReady .slot1 = true) : s.beginBoth.Linked := by
  obtain ⟨j, e, p, q, r, b⟩ := completionReady_spec h r0
  obtain ⟨j', e', p', q', r', b'⟩ := completionReady_spec h r1
  have h1 := linked_complete (e := s.tracker.epos) h e p q r b
  have h2 : (((s.completing .slot0).addTask (.completion .slot0 s.tracker.epos)).completing .slot1 |>.addTask
      (.completion .slot1 s.tracker.epos)).Linked := by
    refine linked_complete (j := j') h1 ?_ p' (by simpa using q') ?_ (by simpa using b')
    · rw [show ∀ u : State, ∀ t, (u.addTask t).job .slot1 = u.job .slot1 from fun _ _ => rfl]
      unfold State.completing; rw [job_mapJob]; simpa using e'
    · rw [shifting_congr (s := s)]; exact r'; simp
  have e2 : s.beginBoth =
      { (((s.completing .slot0).addTask (.completion .slot0 s.tracker.epos)).completing .slot1
          |>.addTask (.completion .slot1 s.tracker.epos)) with
        writer := s.beginBoth.writer, free := s.free + 1 } := by
    simp only [State.beginBoth, State.addTasks, State.completionOf]
    have : ∀ u : State, ∀ t, (u.addTask t).completing .slot1 = (u.completing .slot1).addTask t := by
      intro u t; unfold State.completing State.mapJob; simp only [State.job, addTask_slots]; split <;> rfl
    rw [this]
    split <;> simp [State.addTask]
  rw [e2]
  refine linked_of_eq (linked_perm h2 (w := s.beginBoth.writer) ?_) rfl rfl rfl rfl rfl rfl id rfl id id
  simp only [State.beginBoth, State.addTasks, State.completionOf]
  split
  · simp [List.filterMap_append]
  · simp [List.filterMap_append, WriteTask.slot]
    apply List.Perm.append_left; exact List.Perm.swap _ _ _

theorem linked_tryCompletions {s t : State} (h : s.Linked) (e : s.tryCompletions = some t) : t.Linked := by
  unfold State.tryCompletions at e; split at e
  · rename_i r; simp at r e; subst e; exact linked_beginBoth h r.1 r.2
  · rw [Option.or_eq_some_iff] at e; rcases e with e | ⟨-, e⟩
    · exact linked_tryCompletion h e
    · exact linked_tryCompletion h e

/-! ### Shifts -/

theorem linked_shift {s : State} (h : s.Linked) {hd : HeadLink}
    (hs : ∀ x, State.shifting { s with head := hd } x = s.shifting x) (o : s.head.state = .off → hd.state = .off) :
    State.Linked { s with head := hd } := by
  obtain ⟨h1,h2,h3,h4,h5,h6,h7,h8,h9,h10,h11,h12,h13,h14⟩ := h
  refine ⟨h1,h2,h3,h4,h5,h6,h7,h8,?_,h10,h11,?_,h13,?_⟩
  · intro x hx; rw [hs] at hx; exact h9 x hx
  · intro y j e; have := h12 y j e; simp only [State.rowsShifting, hs]; exact this
  · intro r; have := h14 r; exact ⟨this.1, this.2.1, this.2.2.1, this.2.2.2.1, this.2.2.2.2.1, o this.2.2.2.2.2.1,
        this.2.2.2.2.2.2⟩

/-- the row shift of a job ends, its account changed -/
theorem linked_shiftEnd {s : State} (h : s.Linked) {x hd f} (hx : ∀ y, s.shifting y = (y == x))
    (hs : ∀ y, State.shifting { s with head := hd } y = false)
   (o : s.head.state = .off → hd.state = .off)
   (hf : ∀ j, (f j).phase = j.phase ∧ (f j).fault = j.fault ∧ (f j).account.emitted = j.account.emitted ∧
       (f j).account.pulsed + (f j).account.discarded = j.account.pulsed + j.account.discarded + 1)
   (hr : ∀ j, j.counts.rowsFired.toNat = min j.account.pulsed (2^32-1) → (f j).counts.rowsFired.toNat = min
       (f j).account.pulsed (2^32-1)) :
   State.Linked { s.mapJob x f with head := hd } := by
  set t : State := { s.mapJob x f with head := hd } with ht
  have ju : ∀ y, t.job y = if y = x then (s.job x).map f else s.job y := fun y => job_mapJob s x y f
  have ts : ∀ y, t.shifting y = false := fun y => hs y
  have jc : ∀ y j', t.job y = some j' → ∃ j'', s.job y = some j'' ∧ j'.phase = j''.phase ∧ j'.fault = j''.fault := by
    intro y j'; rw [ju]; split
    · subst y; intro e; simp only [Option.map_eq_some_iff] at e; obtain ⟨j, e, rfl⟩ := e; exact ⟨j, e, by simp [hf]⟩
    · intro e; exact ⟨j', e, by simp⟩
  have jc2 : ∀ y j', s.job y = some j' → ∃ j'', t.job y = some j'' ∧ j''.phase = j'.phase ∧ j''.fault = j'.fault := by
    intro y j' e; rw [ju]; split
    · subst y; simp [e, hf]
    · exact ⟨j', e, rfl, rfl⟩
  have wk : ∀ y, s.working y → t.working y := by
    rintro y ⟨j', e, p, q⟩; obtain ⟨j'', e2, p2, q2⟩ := jc2 y j' e; exact ⟨j'', e2, p2 ▸ p, q2 ▸ q⟩
  have ft : t.queue = s.queue ∧ t.builder = s.builder ∧ t.walker = s.walker ∧ t.ctl = s.ctl ∧ t.writer = s.writer :=
      by
    simp [ht]
  obtain ⟨f1, f2, f3, f4, f5⟩ := ft
  obtain ⟨h1,h2,h3,h4,h5,h6,h7,h8,h9,h10,h11,h12,h13,h14⟩ := h
  constructor
  · rw [f1]; intro i hi; exact wk _ (h1 i hi)
  · rw [f1]; exact h2
  · rw [f1, f2]; exact h3
  · rw [f2]; intro y hy; refine ⟨wk _ (h4 y hy).1, fun j' e => ?_⟩
    obtain ⟨j'', e2, p, -⟩ := jc y j' e; rw [p]; exact (h4 y hy).2 _ e2
  · rw [f2]; exact h5
  · rw [f2]; intro y j' e p; obtain ⟨j'', e2, p2, -⟩ := jc y j' e; exact h6 y j'' e2 (p2 ▸ p)
  · rw [f2]; exact h7
  · rw [f2]; exact h8
  · intro y hy; rw [ts] at hy; cases hy
  · rw [f5]; refine ⟨h10.1, fun y => ?_⟩; rw [h10.2]; constructor
    · rintro ⟨j', e, p⟩; obtain ⟨j'', e2, p2, -⟩ := jc2 y j' e; exact ⟨j'', e2, p2 ▸ p⟩
    · rintro ⟨j', e, p⟩; obtain ⟨j'', e2, p2, -⟩ := jc y j' e; exact ⟨j'', e2, p2 ▸ p⟩
  · rw [f2, f3]; exact h11
  · intro y j' e; simp only [State.rowsQueued, State.rowsShifting, ts, f1]; rw [ju] at e; split at e
    · subst y; simp only [Option.map_eq_some_iff] at e; obtain ⟨j, e, rfl⟩ := e
      have := h12 x j e; have h2 := hf j; have h3 := hx x;
          simp only [State.rowsShifting, h3, State.rowsQueued] at this; simp at this ⊢; omega
    · rename_i hyx; have := h12 y j' e; have h3 := hx y; have h4 : (y == x) = false := by simpa using hyx
      simp only [State.rowsShifting, h3, State.rowsQueued, h4] at this; simp at this ⊢; omega
  · intro y j' e; rw [ju] at e; split at e
    · subst y; simp only [Option.map_eq_some_iff] at e; obtain ⟨j, e, rfl⟩ := e; exact hr j (h13 x j e)
    · exact h13 y j' e
  · rw [f4]; intro hh; have := h14 hh; rw [f1, f3]
    have hn : s.job x = none := by cases x <;> simp_all [State.job, Slots.get]
    have e0 : s.mapJob x f = s := by unfold State.mapJob; rw [hn]
    refine ⟨this.1, ?_, ?_, ?_, ?_, o this.2.2.2.2.2.1, this.2.2.2.2.2.2⟩
    all_goals simp only [ht, e0]; simp [this]

theorem linked_free {s : State} (h : s.Linked) o n : State.Linked { s with outs := o, free := n } := linked_of_eq h
    rfl rfl rfl rfl rfl rfl id rfl id id

theorem stopShift_eq (s : State) : s.stopShift =
    { s with head := s.stopShift.head, outs := s.stopShift.outs, free := s.stopShift.free } := rfl

theorem linked_abortShift {s : State} (h : s.Linked) : s.abortShift.Linked := by
  unfold State.abortShift; split
  · exact h
  · rename_i c x a b e
    have e0 : s.stopShift.discardRows x 1 =
        { ({ s.mapJob x (fun j => { j with account := { j.account with discarded := j.account.discarded + 1 } }) with
            head := s.stopShift.head } : State) with
          outs := s.stopShift.outs, free := s.stopShift.free } := by
      unfold State.discardRows State.mapJob; rw [show s.stopShift.job x = s.job x from rfl]; split <;> rfl
    rw [e0]; apply linked_free
    apply linked_shiftEnd h
    · intro y; simp only [State.shifting, e]; cases x <;> cases y <;> rfl
    · intro y; simp [State.shifting, State.stopShift]
    · exact id
    · intro j; simp; omega
    · intro j; exact id
  · rename_i p e
    have := linked_shift h (hd := s.stopShift.head) (by intro x; simp [State.shifting, State.stopShift, e]) id
    exact linked_free this _ _

theorem shifting_abort (s : State) (x) : s.abortShift.shifting x = false := by
  unfold State.abortShift; cases e : s.head.shift <;> simp [State.shifting, e, State.stopShift, State.discardRows]

theorem linked_head {s : State} (h : s.Linked) {hd : HeadLink} (hs : hd.shift = s.head.shift)
    (o : s.head.state = .off → hd.state = .off) : State.Linked { s with head := hd } :=
  linked_of_eq h rfl rfl rfl hs rfl rfl id rfl id o

theorem linked_startRowShift {s : State} (h : s.Linked) {x r rest} (e : s.queue = .row x r :: rest)
    (hn : s.rowShifting = false) : (State.startRowShift { s with queue := rest } x r).Linked := by
  have hw := h.items (.row x r) (by simp [e])
  have hns : ∀ y, s.shifting y = false := by
    intro y; unfold State.shifting; unfold State.rowShifting at hn; split <;> simp_all
  have hab : ∀ u : State, u.rowShifting = false → u.abortShift.slots = u.slots := by
    intro u hu; unfold State.rowShifting at hu; unfold State.abortShift; split <;> simp_all
  set t := State.startRowShift { s with queue := rest } x r with ht
  have hsl : t.slots = s.slots := by simp only [ht, State.startRowShift]; exact hab _ hn
  have jj := job_congr hsl
  have wk : ∀ y, t.working y ↔ s.working y := fun y => by simp [State.working, jj]
  have ss : ∀ y, t.shifting y = (x == y) := by
    intro y; simp [ht, State.startRowShift, State.shifting, State.tickleOff, State.beginShift]
  have ft : t.queue = rest ∧ t.builder = s.builder ∧ t.walker = s.walker ∧ t.ctl = s.ctl ∧ t.writer = s.writer ∧
      t.tracker = s.tracker ∧ t.firing = s.firing := by
    simp [ht]
  obtain ⟨f1, f2, f3, f4, f5, f6, f7⟩ := ft
  obtain ⟨h1,h2,h3,h4,h5,h6,h7,h8,h9,h10,h11,h12,h13,h14⟩ := h
  constructor
  · rw [f1]; intro i hi; rw [wk]; exact h1 i (by simp [e, hi])
  · rw [f1]; rw [e] at h2; exact h2.tail
  · rw [f1, f2]; intro y hy; exact h3 y (by simp [e, hy])
  · rw [f2]; intro y hy; rw [wk, jj]; exact h4 y hy
  · rw [f2]; exact h5
  · intro y jb; rw [jj, f2]; exact h6 y jb
  · rw [f2]; exact h7
  · rw [f2]; exact h8
  · intro y; rw [ss, jj]; intro hy; simp at hy; subst hy; obtain ⟨j, ej, p, -⟩ := hw; exact ⟨j, ej, p⟩
  · rw [f5]; refine ⟨h10.1, fun y => ?_⟩; rw [jj]; exact h10.2 y
  · rw [f3, f2]; exact h11
  · intro y jb ej; rw [jj] at ej; have := h12 y jb ej;
        simp only [State.rowsQueued, State.rowsShifting, ss, f1, hns, e, List.countP_cons, Item.isRowOf] at *;
        rw [this]
    by_cases hy : x = y
    · subst hy; simp; omega
    · have : (x == y) = false := by simpa using hy
      simp [this]
  · intro y jb; rw [jj]; exact h13 y jb
  · rw [f4]; intro hh; have := h14 hh; rw [e] at this; cases this.1

theorem linked_rowTrigger {s : State} (h : s.Linked) : s.rowTrigger.Linked := by
  have lt : ∀ (f : Counts → Counts) c, (∀ c, (f c).rowsFired = c.rowsFired) → (s.loseTrigger f c).Linked := by
    intro f c hf; unfold State.loseTrigger; split
    · exact linked_faultCounting (linked_countIn h f hf) _
    · exact linked_countIn h f hf
  unfold State.rowTrigger; split
  · exact lt _ _ (fun _ => rfl)
  · split
    · split
      · exact lt _ _ (fun _ => rfl)
      · exact linked_printOut h
    · exact linked_startRowShift h ‹_› (by simp_all)
    all_goals exact h

theorem linked_firing {s : State} (h : s.Linked) {f : Firing}
    (o : f.print = .into → s.firing.print = .into ∨ s.head.state ≠ .off) : State.Linked { s with firing := f } := by
  obtain ⟨h1,h2,h3,h4,h5,h6,h7,h8,h9,h10,h11,h12,h13,h14⟩ := h
  refine ⟨h1,h2,h3,h4,h5,h6,h7,h8,h9,h10,h11,h12,h13,?_⟩
  intro r; have := h14 r; refine ⟨this.1, this.2.1, this.2.2.1, this.2.2.2.1, ?_, this.2.2.2.2.2.1, this.2.2.2.2.2.2⟩
  cases hp : f.print
  · simp
  · rcases o hp with o | o
    · rw [this.2.2.2.2.1] at o; cases o
    · exact absurd this.2.2.2.2.2.1 o

theorem linked_dividerExpires {s : State} (h : s.Linked) : s.dividerExpires.Linked := by
  have h := linked_rowTrigger h
  simp only [State.dividerExpires]; split
  · exact linked_firing h (fun _ => .inl ‹_›)
  · exact h

theorem linked_productStart {s : State} (h : s.Linked) : s.productStart.Linked := by
  unfold State.productStart; repeat' split
  all_goals first | exact h | exact linked_countIn h _ (fun _ => rfl) | skip
  rename_i e hr
  have h1 := linked_countIn h Counts.started (fun _ => rfl)
  simp only [State.acceptProduct]
  have h2 := linked_tail h1 (it := .hold _) (by simpa using e) (by simp)
  exact linked_firing h2 (fun _ => .inr (by simp [hr]))

theorem linked_fireStep {s : State} (h : s.Linked) b : (s.fireStep b).Linked := by
  have cs : ∀ u : State, u.Linked → u.countStep.Linked := fun u hu => linked_firing hu (fun hp => .inl hp)
  simp only [State.fireStep]; repeat' split
  all_goals first | exact h | exact cs _ (linked_productStart h) | exact cs _ h | exact linked_productStart h

theorem linked_tracker {s : State} (h : s.Linked) {t : Tracker}
    (m : s.tracker.marks = [] → s.ctl.engine.resting = true → t.marks = []) : State.Linked { s with tracker := t } :=
    by
  obtain ⟨h1,h2,h3,h4,h5,h6,h7,h8,h9,h10,h11,h12,h13,h14⟩ := h
  refine ⟨h1,h2,h3,h4,h5,h6,h7,h8,h9,h10,h11,h12,h13,?_⟩
  intro r; have := h14 r; exact ⟨this.1, m this.2.1 r, this.2.2⟩

theorem linked_effectiveStep {s : State} (h : s.Linked) : s.effectiveStep.Linked := by
  apply linked_fireStep
  have h1 : (s.mapTracker Tracker.advance).Linked := linked_tracker h (fun m _ => m)
  have h2 : (s.mapTracker Tracker.advance).webStep.Linked := by
    simp only [State.webStep]; split
    · exact linked_raise (linked_tracker h1 (t :=
          { (s.mapTracker Tracker.advance).tracker with
            web := .moving
            stillTimer := .running (s.mapTracker Tracker.advance).tracker.settings.stillTime }) (fun m _ => m)) _
    · exact linked_tracker h1 (fun m _ => m)
  have h3 : ((s.mapTracker Tracker.advance).webStep).widthStep.Linked := by
    unfold State.widthStep; repeat' split
    · exact h2
    · exact h2
    · exact linked_tracker (linked_countIn h2 Counts.long (fun _ => rfl)) (by simp; intro m _; exact m)
    · exact linked_tracker h2 (fun m _ => m)
  unfold State.dueStep; split
  · exact linked_tracker h3 (fun m _ => by simp [m])
  · exact h3

theorem linked_reverseLimitEvent {s : State} (h : s.Linked) : s.reverseLimitEvent.Linked := by
  have : (s.mapTracker fun t => { t.flush with debt := 0 }).Linked := linked_tracker h (by simp [Tracker.flush])
  simp only [State.reverseLimitEvent]; split
  · exact linked_faultCounting this _
  · exact this

theorem linked_inactiveEdge {s : State} (h : s.Linked) : s.inactiveEdge.Linked := by
  have jm : ∀ l w c, (s.judgeMark l w c).Linked := by
    intro l w c; unfold State.judgeMark; repeat' split
    · exact linked_countIn h _ (fun _ => rfl)
    · exact linked_countIn h _ (fun _ => rfl)
    · exact h
    · exact linked_raise (linked_countIn h Counts.dropped (fun _ => rfl)) _
    · rename_i k _
      refine linked_tracker h (fun _ r => ?_)
      exfalso; revert k r; cases s.ctl.engine <;> simp [EngineState.keepsMarks, EngineState.resting]
  unfold State.inactiveEdge; split
  · exact h
  · exact linked_tracker (jm _ _ _) (fun m _ => m)
  · exact linked_tracker h (fun m _ => m)

theorem linked_applyStaged {s : State} (h : s.Linked) : s.applyStaged.Linked := by
  have ap : ∀ p m, (s.applyParams p m).Linked := by
    intro p m
    have h1 := linked_tracker (linked_firing h (f := s.firing.applySetup p) (by simp [Firing.applySetup]))
        (t := s.tracker.applySetup p) (fun m _ => m)
    unfold State.applyParams State.applyHeadSetup
    simp only []
    split
    · refine linked_of_eq (linked_head h1 (hd := ?_) ?_ ?_) ?_ ?_ ?_ ?_ ?_ ?_ ?_ ?_ ?_ ?_
      exact { s.head with settings := headSettingsOf p }
      all_goals first | rfl | exact id
    · refine linked_of_eq (linked_head h1 (hd := { s.head with settings := headSettingsOf p }) rfl id) ?_ ?_ ?_ ?_ ?_
          ?_ ?_ ?_ ?_ ?_
      all_goals first | rfl | exact id
  unfold State.applyStaged; split
  · exact linked_printOut h
  · exact ap _ _
  · exact ap _ _

end Sys2Proof.Machine
end

