-- ==== Sys2Proof/Laws/LinksChain.lean ====
section
/-! SUPPORT. The walk, the chain, the record writer and the commands keep `State.Linked`. -/

namespace Sys2Proof.Machine

theorem linked_illegalEntry {s : State} (h : s.Linked) i : (s.illegalEntry i).Linked := linked_faultBuilding h _ _

theorem linked_fetchError {s : State} (h : s.Linked) i : (s.fetchError i).Linked := linked_faultBuilding h _ _

theorem linked_requestEntry {s : State} (h : s.Linked) (b : Engaged s) i : (s.requestEntry i).Linked :=
    linked_requestRead h b _ _ _

theorem linked_emitOf {s : State} (h : s.Linked) {it : Item} {x} (hb : s.builder.job = some x) (hs : it.slot = x)
    (hf : ∀ y, it = .finish y → s.builder.task = .finish) : (s.emit it).Linked :=
  linked_emit h (hs ▸ hb) (fun e => hf _ e)

theorem linked_actOn {s : State} (h : s.Linked) {x} (hx : s.builder.job = some x) (hh : s.builder.held = none) {t}
    (ht : s.builder.task = t) : (s.actOn x t).Linked := by
  have b : Engaged s := ⟨by simp [hx], hh⟩
  unfold State.actOn; repeat' split
  all_goals first
    | exact h
    | (with_reducible exact linked_endWalk h b _)
    | (with_reducible exact linked_requestEntry h b _)
    | (with_reducible exact linked_requestRead h b _ _ _)
    | (with_reducible exact linked_startTable h b _)
    | (with_reducible exact linked_startSetupBlock h b)
    | (with_reducible exact linked_emitOf h hx rfl (fun _ _ => ht))
    | (with_reducible exact linked_emitOf h hx rfl (fun _ hh => by cases hh))

theorem linked_startImage {s : State} (h : s.Linked) (b : Engaged s) e : (s.startImage e).Linked := by
  unfold State.startImage; split
  · exact linked_walkOn h b _
  · exact linked_illegalEntry h _

theorem linked_countPass {s : State} (h : s.Linked) c : (s.countPass c).Linked := by
  unfold State.countPass; split
  · exact linked_mapJob h _ _ (fun _ => ⟨rfl, rfl, rfl, rfl⟩)
  · exact h

theorem busy_countPass {s : State} (b : Engaged s) c : Engaged (s.countPass c) := by
  unfold State.countPass; split
  · simpa [Engaged] using b
  · exact b

theorem linked_walkEntry {s : State} (h : s.Linked) (b : Engaged s) e c : (s.walkEntry e c).Linked := by
  unfold State.walkEntry State.walkImage State.walkBlank State.walkWaitMark State.walkTable State.walkOpen
      State.walkClose State.walkExit State.walkEnd
  repeat' split
  all_goals first
    | (with_reducible exact linked_illegalEntry h _)
    | (with_reducible exact linked_walkOn h b _)
    | (with_reducible exact linked_startImage h b _)
    | (with_reducible exact linked_walkAt h b _)
    | (with_reducible exact linked_faultBuilding h _ _)
    | (with_reducible exact linked_walkAtWith h b _ _)
    | (with_reducible exact linked_endWalk h b _)
    | (with_reducible exact linked_walkAtWith (linked_countPass h _) (busy_countPass b _) _ _)

theorem linked_walkPair {s : State} (h : s.Linked) (b : Engaged s) e f c : (s.walkPair e f c).Linked := by
  unfold State.walkPair; repeat' split
  all_goals first
    | (with_reducible exact linked_illegalEntry h _)
    | (with_reducible exact linked_walkOn h b _)
    | (with_reducible exact linked_walkAt h b _)

theorem linked_walkOpened {s : State} (h : s.Linked) (b : Engaged s) e f : (s.walkOpened e f).Linked := by
  unfold State.walkOpened; repeat' split
  all_goals first
    | (with_reducible exact linked_faultBuilding h _ _)
    | (with_reducible exact linked_walkAt h b _)
    | (with_reducible exact linked_walkAtWith h b _ _)

theorem linked_entryRead {s : State} (h : s.Linked) (b : Engaged s) r c : (s.entryRead r c).Linked := by
  unfold State.entryRead; repeat' split
  all_goals first
    | exact h
    | (with_reducible exact linked_fetchError h _)
    | (with_reducible exact linked_walkEntry h b _ _)
    | (with_reducible exact linked_walkPair h b _ _ _)
    | (with_reducible exact linked_walkOpened h b _ _)

theorem linked_emitRow {s : State} (h : s.Linked) d : (s.emitRow d).Linked := by
  unfold State.emitRow; split
  · exact h
  · exact linked_emit h ‹_› (by simp)

theorem linked_rowRead {s : State} (h : s.Linked) (b : Engaged s) r : (s.rowRead r).Linked := by
  unfold State.rowRead; repeat' split
  all_goals first
    | exact h
    | (with_reducible exact linked_fetchError h _)
    | (with_reducible exact linked_emitRow h _)
    | (with_reducible exact linked_walkOn h b _)

theorem linked_overlayRead {s : State} (h : s.Linked) r : (s.overlayRead r).Linked := by
  unfold State.overlayRead; repeat' split
  all_goals first | exact h | (with_reducible exact linked_fetchError h _) | (with_reducible exact linked_emitRow h _)

theorem linked_mapper {s : State} (h : s.Linked) m : State.Linked { s with mapper := m } := linked_of_eq h rfl rfl rfl
    rfl rfl rfl id rfl id id

theorem linked_staging {s : State} (h : s.Linked) m : State.Linked { s with staging := m } := linked_of_eq h rfl rfl
    rfl rfl rfl rfl id rfl id id

theorem linked_tableRead {s : State} (h : s.Linked) r : (s.tableRead r).Linked := by
  unfold State.tableRead State.emitSwap; repeat' split
  · exact linked_fetchError h _
  · exact linked_mapper h _
  · exact linked_emit (linked_mapper h _) ‹_› (fun hh => by cases hh)

theorem linked_stage {s : State} (h : s.Linked) (b : Engaged s) r : (s.stage r).Linked := linked_walkOn
    (s := { s with staging := r }) (linked_staging h _) b _

theorem linked_setupBlockRead {s : State} (h : s.Linked) (b : Engaged s) r : (s.setupBlockRead r).Linked := by
  simp only [State.setupBlockRead]; repeat' split
  all_goals first
    | (with_reducible exact linked_fetchError h _)
    | (with_reducible exact linked_faultBuilding h _ _)
    | (with_reducible exact linked_stage h b _)
    | (with_reducible exact linked_walkOn h b _)

theorem linked_mapRead {s : State} (h : s.Linked) (b : Engaged s) r : (s.mapRead r).Linked := by
  unfold State.mapRead; repeat' split
  all_goals first
    | exact h
    | (with_reducible exact linked_fetchError h _)
    | (with_reducible exact linked_stage h b _)
    | (with_reducible exact linked_faultBuilding h _ _)

/-! ### Own steps -/

theorem linked_tryHead {s t : State} (h : s.Linked) (e : s.tryHead = some t) : t.Linked := by
  unfold State.tryHead State.tryEnd at e
  split at e
  · simp at e; subst e; exact linked_mapper (linked_tail h ‹_› (by simp)) _
  · simp at e; subst e; exact linked_applyStaged (linked_tail h ‹_› (by simp))
  · split at e <;> simp at e; subst e; exact linked_printOut h
  · split at e
    · split at e <;> simp at e; subst e; exact linked_takeEnd h ‹_› (by simp_all)
    · cases e
  · cases e
  · cases e

theorem linked_tryEnd {s t : State} (h : s.Linked) (e : s.tryEnd = some t) : t.Linked := by
  unfold State.tryEnd at e; split at e
  · split at e <;> simp at e; subst e; exact linked_takeEnd h ‹_› (by simp_all)
  · cases e

theorem linked_tryDivider {s t : State} (h : s.Linked) (e : s.tryDivider = some t) : t.Linked := by
  unfold State.tryDivider at e; split at e <;> simp at e; subst e; exact linked_dividerExpires h

theorem linked_tryHeld {s t : State} (h : s.Linked) (e : s.tryHeld = some t) : t.Linked := by
  unfold State.tryHeld at e; split at e
  · split at e <;> simp at e; subst e
    have := h.held _ ‹_›
    exact linked_enterHeld h this.2.1 this.2.2
  · cases e

theorem held_none {s : State} (h : s.Linked) (hs : s.builder.state ≠ .waitRoom) : s.builder.held = none := by
  cases e : s.builder.held
  · rfl
  · exact absurd (h.held _ e).1 hs

theorem linked_tryStage {s t : State} (h : s.Linked) (e : s.tryStage = some t) : t.Linked := by
  unfold State.tryStage at e; split at e
  · rename_i x h1 h2
    split at e <;> simp at e; subst e
    have hn := held_none h (by rw [h1]; simp)
    exact linked_actOn (linked_walkOn h ⟨by simp [h2], hn⟩ _) h2 hn rfl
  · cases e

theorem linked_tryWalk {s t : State} (h : s.Linked) (e : s.tryWalk = some t) : t.Linked := by
  unfold State.tryWalk at e; split at e
  · rename_i x h1 h2
    split at e <;> simp at e; subst e
    exact linked_actOn h h2 (held_none h (by rw [h1]; simp)) rfl
  · cases e

theorem linked_tryFree {s t : State} (h : s.Linked) (e : s.tryFree = some t) : t.Linked := by
  unfold State.tryFree State.freeStartReady at e
  split at e
  · rename_i hc; simp at e; obtain ⟨e, rfl⟩ := e
    exact linked_firing h (fun _ => .inr (by simp [e.1.2]))
  · cases e

theorem linked_headOff {s : State} (h : s.Linked) : s.headOff.Linked := by
  have h1 := linked_abortShift h
  have h2 : State.Linked { s.abortShift with head := s.headOff.head } := linked_head h1
      (by simp [State.headOff, State.stopHeadTimers, State.tickleOff, State.setHead])
      (by simp [State.headOff, State.setHead])
  exact linked_of_eq h2 rfl rfl rfl rfl rfl rfl id rfl id id

theorem abortShift_idle (s : State) : s.abortShift.head.shift = .idle := by
  unfold State.abortShift; cases e : s.head.shift <;> simp [e, State.stopShift, State.discardRows]

theorem abort_slots_of_idle {s : State} (h : s.slots.slot0 = none) (h' : s.slots.slot1 = none) : s.abortShift.slots =
    s.slots := by
  have : ∀ x, s.slots.get x = none := by intro x; cases x <;> assumption
  unfold State.abortShift; split
  · rfl
  · unfold State.discardRows State.mapJob State.job; simp [State.stopShift, this]
  · rfl

/-- with no job held nothing is left -/
theorem empty_of_no_jobs {s : State} (h : s.Linked) (a : s.slots.slot0 = none) (b : s.slots.slot1 = none) :
   s.queue = [] ∧ s.builder.job = none ∧ (∀ x, s.shifting x = false) ∧ s.writer.list.filterMap WriteTask.slot = [] :=
       by
  have hn : ∀ x, s.job x = none := by intro x; cases x <;> assumption
  refine ⟨?_, ?_, ?_, ?_⟩
  · rw [List.eq_nil_iff_forall_not_mem]; intro it hi; obtain ⟨j, e, -⟩ := h.items it hi; rw [hn] at e; cases e
  · cases e : s.builder.job
    · rfl
    · obtain ⟨⟨j, ej, -⟩, -⟩ := h.building _ e; rw [hn] at ej; cases ej
  · intro x; cases e : s.shifting x
    · rfl
    · obtain ⟨j, ej, -⟩ := h.shift x e; rw [hn] at ej; cases ej
  · rw [List.eq_nil_iff_forall_not_mem]; intro x hx; rw [h.tasks.2] at hx; obtain ⟨j, e, -⟩ := hx; rw [hn] at e;
        cases e

/-- no job held, nothing anywhere -/
theorem linked_empty {s : State} (q : s.queue = []) (a : s.slots.slot0 = none) (b : s.slots.slot1 = none)
   (bj : s.builder.job = none) (bs : s.builder.state = .free) (bk : s.builder.stack = []) (bh : s.builder.held = none)
       (bt : s.builder.task = .none)
   (sh : s.head.shift = .idle) (w : s.writer.list.filterMap WriteTask.slot = [])
   (r : s.tracker.marks = [] ∧ s.firing.print = .out ∧ s.head.state = .off ∧ s.walker.stage = .none) : s.Linked := by
  have hn : ∀ x, s.job x = none := by intro x; cases x <;> assumption
  have hs : ∀ x, s.shifting x = false := by intro x; simp [State.shifting, sh]
  constructor
  · simp [q]
  · simp [q]
  · simp [q]
  · simp [bj]
  · simp [bj]
  · simp [hn]
  · simp [*]
  · simp [bh]
  · simp [hs]
  · simp [w, hn]
  · simp [bj]
  · simp [hn]
  · simp [hn]
  · intro _; exact ⟨q, r.1, a, b, r.2.1, r.2.2.1, r.2.2.2⟩

theorem headOff_facts (s : State) : s.headOff.head.shift = .idle ∧ s.headOff.head.state = .off := by
  refine ⟨?_, ?_⟩
  · simp [State.headOff, State.stopHeadTimers, State.tickleOff, State.setHead, abortShift_idle]
  · simp [State.headOff, State.setHead, abortShift_idle]

theorem headOff_slots {s : State} (h : s.slots.slot0 = none) (h' : s.slots.slot1 = none) : s.headOff.slots = s.slots
    := by
  have e : s.headOff.slots = s.abortShift.slots := by simp [State.headOff, State.stopHeadTimers]
  rw [e, abort_slots_of_idle h h']

theorem linked_enterStopped {s : State} (h : s.Linked) (q : s.quietEngine = true) : s.enterStopped.Linked := by
  simp [State.quietEngine] at q
  obtain ⟨⟨⟨⟨a, b⟩, -⟩, w⟩, -⟩ := q
  obtain ⟨e1, e2, e3, e4⟩ := empty_of_no_jobs h a b
  have hf := h.free e2
  unfold State.enterStopped
  set u := State.firingRest
      (State.mapTracker { s.setEngine .stopped with walker := { s.walker with state := .idle, stage := .none } }
      Tracker.forget) with hu
  have us : u.slots = s.slots := rfl
  have hs := headOff_slots (s := u) a b
  have q1 : u.queue = s.queue := rfl
  have q2 : u.builder = s.builder := rfl
  have q3 : u.writer = s.writer := rfl
  apply linked_empty <;> simp only [raise_queue, raise_slots, raise_builder, raise_head, raise_writer, raise_tracker,
      raise_firing, raise_walker, headOff_frame, hs, us, q1, q2, q3, headOff_facts]
  · exact e1
  · exact a
  · exact b
  · exact e2
  · exact hf.1
  · exact hf.2.1
  · exact hf.2.2.1
  · exact hf.2.2.2
  · exact e4
  · exact ⟨rfl, rfl, trivial, rfl⟩

theorem linked_chainFault {s : State} (h : s.Linked) c : (s.chainFault c).Linked := by
  unfold State.chainFault; split
  · exact h
  · set u := State.firingRest (State.mapTracker
            { s with
              ctl := { s.ctl with engine := .faulted, chainCause := c }
              slots := Slots.reset
              writer := ⟨[], 0⟩
              queue := []
              staging := .empty
              builder := Builder.reset
              port := s.port.atFault
              walker := s.walker.atFault } Tracker.forget) with hu
    have us : u.slots = Slots.reset := rfl
    have hs := headOff_slots (s := u) rfl rfl
    apply linked_empty <;> simp [hs, us, headOff_facts, Slots.reset]
    all_goals simp [hu, Builder.reset, Tracker.forget, Firing.rest, State.firingRest, Walker.atFault]

theorem linked_tryDrainEnd {s t : State} (h : s.Linked) (e : s.tryDrainEnd = some t) : t.Linked := by
  unfold State.tryDrainEnd at e; split at e <;> simp at e; subst e; exact linked_enterStopped h (by simp_all)

theorem linked_lookOn {s : State} (h : s.Linked) (b : s.builder.job = none) (r : s.ctl.engine.resting = false) g k a n
    : (s.lookOn g k a n).Linked := by
  have : State.Linked { s with walker := { s.walker with state := .looking, stage := g } } :=
    linked_frame h rfl rfl rfl (.inl rfl) (List.Perm.refl _) (fun _ _ => b) (fun hh => by simp_all)
  exact linked_port this _

theorem linked_walkerKeep {s : State} (h : s.Linked) {w} (g : w.stage = s.walker.stage) : State.Linked
    { s with walker := w } :=
  linked_of_eq h rfl rfl rfl rfl rfl g id rfl id id

theorem linked_walkerNone {s : State} (h : s.Linked) {w : Walker} (g : w.stage = .none) : State.Linked
    { s with walker := w } :=
  linked_frame h rfl rfl rfl (.inl rfl) (List.Perm.refl _) (fun a => absurd g a)
    fun r => ⟨r, g, (h.resting r).2.1, (h.resting r).2.2.2.2.1, (h.resting r).2.2.2.2.2.1⟩

theorem job_of_free {s : State} (h : s.Linked) (e : s.builder.state = .free) : s.builder.job = none := by
  cases hb : s.builder.job
  · rfl
  · exact absurd e (h.busy (by simp [hb]))

theorem linked_readLink {s : State} (h : s.Linked) (b : s.builder.job = none) (r : s.ctl.engine.resting = false) :
    s.readLink.Linked := linked_lookOn h b r _ _ _ _

theorem linked_tryLook {s t : State} (h : s.Linked) (e : s.tryLook = some t) : t.Linked := by
  unfold State.tryLook at e; split at e <;> simp at e; subst e
  rename_i r; simp [State.lookReady] at r
  have b : s.builder.job = none := job_of_free h r.1.1.1.2
  have n : s.ctl.engine.resting = false := by rw [r.1.1.1.1.2]; rfl
  exact linked_readLink (s := s.mapWalker fun w => { w with lookOwed := false, pollTimer := .stopped })
      (linked_walkerKeep h rfl) b n

theorem linked_tryWant {s t : State} (h : s.Linked) (e : s.tryWant = some t) : t.Linked := by
  unfold State.tryWant at e; split at e <;> simp at e
  obtain ⟨w, hw, rfl⟩ := e
  have : (s.mapBuilder fun b => { b with want := none }).Linked := by
    obtain ⟨h1,h2,h3,h4,h5,h6,h7,h8,h9,h10,h11,h12,h13,h14⟩ := h
    exact ⟨h1,h2,h3,h4,h5,h6,h7,h8,h9,h10,h11,h12,h13,h14⟩
  exact linked_port this _

theorem linked_ownStep {s t : State} (h : s.Linked) (e : s.ownStep = some t) : t.Linked := by
  rcases ownStep_cases e with e | e | e | e | e | e | e | e | e | e | e | e
  · exact linked_tryHead h e
  · exact linked_tryDivider h e
  · exact linked_tryHeld h e
  · exact linked_tryStage h e
  · exact linked_tryWalk h e
  · exact linked_tryFree h e
  · exact linked_tryCompletions h e
  · exact linked_tryDrainEnd h e
  · exact linked_tryLook h e
  · unfold State.tryWriter at e; split at e <;> simp at e; obtain ⟨_, _, rfl⟩ := e; exact linked_port h _
  · exact linked_tryWant h e
  · unfold State.tryGrant at e; split at e <;> simp at e; obtain ⟨_, _, rfl⟩ := e; exact linked_port h _

theorem linked_rest {s : State} (h : s.Linked) : s.rest.Linked := restFor_keeps (fun _ _ => linked_ownStep) _ _ h

theorem linked_onBus {s : State} (h : s.Linked) r : (s.onBus r).Linked := linked_of_eq h rfl rfl rfl rfl rfl rfl id
    rfl id id

theorem linked_endLookIdle {s : State} (h : s.Linked) : s.endLookIdle.Linked := linked_walkerNone h rfl

theorem linked_endLookWait {s : State} (h : s.Linked) : s.endLookWait.Linked := by
  unfold State.endLookWait; split
  · exact linked_walkerNone h rfl
  · exact linked_endLookIdle h

theorem linked_release {s : State} (h : s.Linked) r : (s.addTask (.release r)).Linked :=
  linked_perm h (by simp [List.filterMap_append, List.filterMap_cons, WriteTask.slot])

theorem linked_moveAnchor {s : State} (h : s.Linked) r : (s.moveAnchor r).Linked :=
  linked_release (linked_walkerKeep h (w := { s.walker with anchor := r }) rfl) _

/-- engine not resting, builder free during a look -/
theorem look_facts {s : State} (h : s.Linked) (g : s.walker.stage ≠ .none) (d : s.walker.stage ≠ .discarding) :
   s.builder.job = none ∧ s.ctl.engine.resting = false := by
  refine ⟨h.looking g d, ?_⟩
  cases e : s.ctl.engine.resting
  · rfl
  · exact absurd (h.resting e).2.2.2.2.2.2 g

theorem linked_skipRecord {s : State} (h : s.Linked) (g : s.walker.stage ≠ .none) (d : s.walker.stage ≠ .discarding) r
    : (s.skipRecord r).Linked := by
  obtain ⟨b, n⟩ := look_facts h g d
  unfold State.skipRecord; split
  · exact linked_frame (linked_moveAnchor h r) rfl rfl rfl (.inl rfl) (List.Perm.refl _) (fun _ _ => b)
        (fun hh => by simp at hh; simp_all)
  · exact linked_endLookIdle (linked_moveAnchor h _)

theorem linked_linkRead {s : State} (h : s.Linked) r : (s.linkRead r).Linked := by
  unfold State.linkRead; split
  · rename_i e
    obtain ⟨b, n⟩ := look_facts h (by rw [e]; simp) (by rw [e]; simp)
    repeat' split
    all_goals first
      | (with_reducible exact linked_chainFault h _)
      | (with_reducible exact linked_endLookWait h)
      | (with_reducible exact linked_lookOn h b n _ _ _ _)
  · exact h

theorem linked_stateRead {s : State} (h : s.Linked) r : (s.stateRead r).Linked := by
  unfold State.stateRead; split
  · rename_i e
    have g : s.walker.stage ≠ .none := by rw [e]; simp
    have d : s.walker.stage ≠ .discarding := by rw [e]; simp
    obtain ⟨b, n⟩ := look_facts h g d
    repeat' split
    all_goals first
      | (with_reducible exact linked_chainFault h _)
      | (with_reducible exact linked_endLookWait h)
      | (with_reducible exact linked_lookOn h b n _ _ _ _)
      | (with_reducible exact linked_skipRecord h g d _)
  · exact h

theorem linked_headerRead {s : State} (h : s.Linked) r : (s.headerRead r).Linked := by
  unfold State.headerRead; split
  · rename_i e
    obtain ⟨b, n⟩ := look_facts h (by rw [e]; simp) (by rw [e]; simp)
    repeat' split
    all_goals first
      | (with_reducible exact linked_chainFault h _)
      | (with_reducible exact linked_lookOn h b n _ _ _ _)
  · exact h

/-- a job placed in a free slot: it is BUILDING with the builder on it, or COMPLETING with its task -/
theorem placeJob_job (s : State) (x j y) : (s.placeJob x j).job y = if y = x then some j else s.job y := by
  cases x <;> cases y <;> rfl

theorem slot_unused {s : State} (h : s.Linked) {x} (hx : s.job x = none) :
   (∀ it ∈ s.queue, it.slot ≠ x) ∧ s.shifting x = false ∧ s.builder.job ≠ some x ∧ x ∉ s.writer.list.filterMap
       WriteTask.slot := by
  refine ⟨?_, ?_, ?_, ?_⟩
  · rintro it hi rfl; obtain ⟨j, e, -⟩ := h.items it hi; rw [hx] at e; cases e
  · cases e : s.shifting x
    · rfl
    · obtain ⟨j, ej, -⟩ := h.shift x e; rw [hx] at ej; cases ej
  · intro e; obtain ⟨⟨j, ej, -⟩, -⟩ := h.building _ e; rw [hx] at ej; cases ej
  · rw [h.tasks.2]; rintro ⟨j, e, -⟩; rw [hx] at e; cases e

theorem rowsQueued_zero {s : State} {x} (h : ∀ it ∈ s.queue, it.slot ≠ x) : s.rowsQueued x = 0 := by
  unfold State.rowsQueued; rw [List.countP_eq_zero]; intro it hi; have := h it hi;
      cases it <;> simp_all [Item.isRowOf, Item.slot]

theorem linked_placeBuilding {s : State} (h : s.Linked) {x j} (hx : s.job x = none) (b : s.builder.job = none)
    (n : s.ctl.engine.resting = false) (hj : j.phase = .building) (hf : j.fault = none)
   (ha : j.account = ⟨0,0,0⟩) (hc : j.counts.rowsFired = 0#32) (hg : s.walker.stage = .none) {bd : Builder}
       (b1 : bd.job = some x) (b2 : bd.state ≠ .free) (b3 : bd.held = none) : State.Linked
       { s.placeJob x j with builder := bd } := by
  set t : State := { s.placeJob x j with builder := bd } with ht
  obtain ⟨q, sh, -, w⟩ := slot_unused h hx
  have ju : ∀ y, t.job y = if y = x then some j else s.job y := placeJob_job s x j
  have ss : ∀ y, t.shifting y = s.shifting y := fun y => rfl
  have wk : ∀ y, s.working y → t.working y := by
    rintro y ⟨j', e, p⟩; unfold State.working; rw [ju]; split
    · subst y; rw [hx] at e; cases e
    · exact ⟨j', e, p⟩
  have wx : t.working x := ⟨j, by rw [ju]; simp, by simp [hj], hf⟩
  obtain ⟨h1,h2,h3,h4,h5,h6,h7,h8,h9,h10,h11,h12,h13,h14⟩ := h
  constructor
  · intro it hi; exact wk _ (h1 it hi)
  · exact h2
  · intro y hy e; rw [show t.builder.job = some x from b1] at e; cases e; exact q _ hy rfl
  · intro y e; rw [show t.builder.job = some x from b1] at e; cases e; refine ⟨wx, fun j' e => ?_⟩; rw [ju] at e;
        simp at e; subst e; exact hj
  · exact fun _ => b2
  · intro y j' e p; rw [ju] at e; split at e
    · subst y; exact b1
    · have := h6 y j' e p; rw [b] at this; cases this
  · intro e; rw [show t.builder.job = some x from b1] at e; cases e
  · intro it e; rw [show t.builder.held = none from b3] at e; cases e
  · intro y hy; rw [ss] at hy; obtain ⟨j', e, p⟩ := h9 y hy; rw [ju]; split
    · subst y; rw [hx] at e; cases e
    · exact ⟨j', e, p⟩
  · refine ⟨h10.1, fun y => ?_⟩
    rw [show t.writer = s.writer from rfl, ju]; split
    · subst y; simp [w, hj]
    · exact h10.2 y
  · intro a; exact absurd hg a
  · intro y j' e; rw [ju] at e; split at e
    · subst y; cases e; simp [ha, State.rowsShifting, ss, sh]; exact (rowsQueued_zero q).symm
    · exact h12 y j' e
  · intro y j' e; rw [ju] at e; split at e
    · subst y; cases e; simp [ha, hc]
    · exact h13 y j' e
  · intro r; rw [show t.ctl = s.ctl from rfl, n] at r; cases r

theorem linked_placeCompleting {s : State} (h : s.Linked) {x j} (hx : s.job x = none)
    (n : s.ctl.engine.resting = false) (hj : j.phase = .completing)
   (ha : j.account = ⟨0,0,0⟩) (hc : j.counts.rowsFired = 0#32) {w : Writer}
       (hw : (w.list.filterMap WriteTask.slot).Perm (x :: s.writer.list.filterMap WriteTask.slot)) : State.Linked
       { s.placeJob x j with writer := w } := by
  set t : State := { s.placeJob x j with writer := w } with ht
  obtain ⟨q, sh, bx, wn⟩ := slot_unused h hx
  have ju : ∀ y, t.job y = if y = x then some j else s.job y := placeJob_job s x j
  have ss : ∀ y, t.shifting y = s.shifting y := fun y => rfl
  have wk : ∀ y, s.working y → t.working y := by
    rintro y ⟨j', e, p⟩; unfold State.working; rw [ju]; split
    · subst y; rw [hx] at e; cases e
    · exact ⟨j', e, p⟩
  obtain ⟨h1,h2,h3,h4,h5,h6,h7,h8,h9,h10,h11,h12,h13,h14⟩ := h
  constructor
  · intro it hi; exact wk _ (h1 it hi)
  · exact h2
  · exact h3
  · intro y e; refine ⟨wk _ (h4 y e).1, fun j' ej => ?_⟩; rw [ju] at ej; split at ej
    · subst y; exact absurd e bx
    · exact (h4 y e).2 j' ej
  · exact h5
  · intro y j' e p; rw [ju] at e; split at e
    · subst y; cases e; rw [hj] at p; cases p
    · exact h6 y j' e p
  · exact h7
  · exact h8
  · intro y hy; rw [ss] at hy; obtain ⟨j', e, p⟩ := h9 y hy; rw [ju]; split
    · subst y; rw [hx] at e; cases e
    · exact ⟨j', e, p⟩
  · refine ⟨hw.nodup_iff.mpr (List.nodup_cons.mpr ⟨wn, h10.1⟩), fun y => ?_⟩
    rw [hw.mem_iff, List.mem_cons, ju]; split
    · subst y; simp [hj]
    · rename_i hyx; simp [hyx]; simpa using h10.2 y
  · exact h11
  · intro y j' e; rw [ju] at e; split at e
    · subst y; cases e; simp [ha, State.rowsShifting, ss, sh]; exact (rowsQueued_zero q).symm
    · exact h12 y j' e
  · intro y j' e; rw [ju] at e; split at e
    · subst y; cases e; simp [ha, hc]
    · exact h13 y j' e
  · intro r; rw [show t.ctl = s.ctl from rfl, n] at r; cases r

theorem freeSlot_none {s : State} {x} (e : s.slots.freeSlot = some x) : s.job x = none := by
  unfold Slots.freeSlot at e; split at e <;> simp at e <;> subst e <;> assumption

theorem linked_takeFaulted {s : State} (h : s.Linked) {x} (e : s.slots.freeSlot = some x)
    (n : s.ctl.engine.resting = false) r g c : (s.takeFaulted x r g c).Linked := by
  have h0 := linked_walkerKeep h (w := { s.walker with anchor := r }) rfl
  have key : ∀ w : Writer, (w.list.filterMap WriteTask.slot).Perm (x :: s.writer.list.filterMap WriteTask.slot) →
      State.Linked
          { State.placeJob { s with walker := { s.walker with anchor := r } } x (g.toJob r .completing (some (c, 0))) with writer := w } :=
    fun w hw => linked_placeCompleting h0 (freeSlot_none e) n rfl rfl rfl hw
  simp only [State.takeFaulted]; apply linked_oweLook
  simp only [State.addTasks]; split
  · refine linked_of_eq (key ⟨s.writer.list ++ [.release s.walker.anchor] ++ [.completion x s.tracker.epos],
        s.writer.written⟩ ?_) rfl rfl rfl rfl rfl rfl id rfl id id
    simp [List.filterMap_append, WriteTask.slot]; exact List.perm_append_singleton _ _
  · refine linked_of_eq (key ⟨s.writer.list ++ [.completion x s.tracker.epos] ++ [.release s.walker.anchor],
        s.writer.written⟩ ?_) rfl rfl rfl rfl rfl rfl id rfl id id
    simp [List.filterMap_append, WriteTask.slot]; exact List.perm_append_singleton _ _

theorem linked_take {s : State} (h : s.Linked) (g : s.walker.stage ≠ .none) (d : s.walker.stage ≠ .discarding) r hd :
    (s.take r hd).Linked := by
  obtain ⟨b, n⟩ := look_facts h g d
  unfold State.take; split
  · exact linked_endLookIdle (linked_moveAnchor h _)
  · rename_i x e
    split
    · exact linked_endLookIdle (linked_takeFaulted h e n _ _ _)
    · split
      · exact linked_endLookIdle (linked_takeFaulted h e n _ _ _)
      · have h1 := linked_endLookIdle (linked_moveAnchor h r)
        exact linked_placeBuilding h1 (x := x) (j := hd.toJob r .building none) (freeSlot_none e) b n rfl rfl rfl rfl
            rfl
          (bd := { Builder.reset with
            state := .walking, job := some x, orphan := s.builder.orphan
            task := if isPrintKind hd.kind then .entry else .setupBlock }) rfl (by simp) rfl

theorem linked_exchangeDone {s : State} (h : s.Linked) r : (s.exchangeDone r).Linked := by
  unfold State.exchangeDone; split
  · rename_i e
    have g : s.walker.stage ≠ .none := by rw [e]; simp
    have d : s.walker.stage ≠ .discarding := by rw [e]; simp
    repeat' split
    all_goals first
      | (with_reducible exact linked_chainFault h _)
      | (with_reducible exact linked_endLookWait h)
      | (with_reducible exact linked_take h g d _ _)
      | (with_reducible exact linked_skipRecord h g d _)
  · exact h

theorem linked_completed {s : State} (h : s.Linked) t w : (s.completed t w).Linked := by
  unfold State.completed; split
  swap; · exact h
  rename_i x ep rest el
  split
  · exact h
  rename_i j ej
  apply linked_oweLook
  have hx : x ∈ s.writer.list.filterMap WriteTask.slot := by simp [el, WriteTask.slot]
  have hp : j.phase = .completing := by
    rw [h.tasks.2] at hx; obtain ⟨j', e, p⟩ := hx; rw [ej] at e; cases e; exact p
  set t0 : State := (((s.onBus (.wrote t.address (completedWord w j.fault))).freeJob x).removeTask) with ht0
  have h0 : t0.Linked := by
    have ju : ∀ y, t0.job y = if y = x then none else s.job y := by intro y; cases x <;> cases y <;> rfl
    have ss : ∀ y, t0.shifting y = s.shifting y := fun y => rfl
    have fx : ∀ y, s.working y → y ≠ x := by rintro y ⟨j', e, p, -⟩ rfl; rw [ej] at e; cases e; exact p hp
    have wk : ∀ y, s.working y → t0.working y := by
      intro y hy; have := fx y hy; unfold State.working; rw [ju, if_neg this]; exact hy
    obtain ⟨h1,h2,h3,h4,h5,h6,h7,h8,h9,h10,h11,h12,h13,h14⟩ := h
    constructor
    · intro it hi; exact wk _ (h1 it hi)
    · exact h2
    · exact h3
    · intro y e; refine ⟨wk _ (h4 y e).1, fun j' ej' => ?_⟩; rw [ju] at ej'; split at ej'
      · cases ej'
      · exact (h4 y e).2 j' ej'
    · exact h5
    · intro y j' e p; rw [ju] at e; split at e
      · cases e
      · exact h6 y j' e p
    · exact h7
    · exact h8
    · intro y hy; rw [ss] at hy; obtain ⟨j', e, p⟩ := h9 y hy; rw [ju]; split
      · subst y; rw [ej] at e; cases e; exact absurd hp p
      · exact ⟨j', e, p⟩
    · have hl : t0.writer.list = rest := by simp [ht0, State.removeTask, State.freeJob, State.onBus, el]
      have hl2 : s.writer.list.filterMap WriteTask.slot = x :: rest.filterMap WriteTask.slot := by
        simp [el, WriteTask.slot]
      rw [hl]; rw [hl2] at h10
      obtain ⟨a, b⟩ := h10; rw [List.nodup_cons] at a
      refine ⟨a.2, fun y => ?_⟩
      rw [ju]; split
      · subst y; simp [a.1]
      · rename_i hyx; rw [← b y]; simp [hyx]
    · exact h11
    · intro y j' e; rw [ju] at e; split at e
      · cases e
      · exact h12 y j' e
    · intro y j' e; rw [ju] at e; split at e
      · cases e
      · exact h13 y j' e
    · intro r; have := h14 r; exfalso; cases x <;> simp_all [State.job, Slots.get]
  unfold State.completionAttention; split
  · exact linked_raise h0 _
  · split
    · exact linked_raise h0 _
    · exact h0

theorem linked_stateUpdated {s : State} (h : s.Linked) t r : (s.stateUpdated t r).Linked := by
  unfold State.stateUpdated; repeat' split
  · exact linked_chainFault (linked_onBus h _) _
  · exact linked_completed h _ _
  · exact linked_chainFault h _

theorem linked_resultWritten {s : State} (h : s.Linked) t r : (s.resultWritten t r).Linked := by
  unfold State.resultWritten; split
  · exact linked_chainFault (linked_onBus h _) _
  · exact linked_perm (linked_onBus h _) (List.Perm.refl _)

theorem linked_releaseEnded {s : State} (h : s.Linked) : s.releaseEnded.Linked := by
  unfold State.releaseEnded; split
  · rename_i e
    obtain ⟨b, n⟩ := look_facts h (by rw [e]; simp) (by rw [e]; simp)
    exact linked_readLink h b n
  · exact h

theorem linked_finishRelease {s : State} (h : s.Linked) : s.finishRelease.Linked := by
  unfold State.finishRelease; split
  · rename_i r rest e
    exact linked_releaseEnded (linked_perm h (by simp [e, List.filterMap_cons, WriteTask.slot]))
  · exact h

theorem linked_releaseDone {s : State} (h : s.Linked) t r : (s.releaseDone t r).Linked := by
  unfold State.releaseDone; split
  · exact linked_chainFault (linked_onBus h _) _
  · exact linked_finishRelease (linked_onBus h _)

theorem linked_ceaseLooking {s : State} (h : s.Linked) : s.ceaseLooking.Linked := by
  unfold State.ceaseLooking
  refine linked_frame h rfl rfl rfl (.inl rfl) (List.Perm.refl _) ?_ ?_
  · simp only [Walker.endLook]; split <;> simp_all
    rename_i e; exact h.looking (by rw [e]; simp) (by rw [e]; simp)
  · intro r; have r' := h.resting r; exact ⟨r, by simp [Walker.endLook, r'], r'.2.1, r'.2.2.2.2.1, r'.2.2.2.2.2.1⟩

/-- the engine goes to a state that is not resting -/
theorem linked_ctl {s : State} (h : s.Linked) {c : Control}
    (e : c.engine.resting = true → s.ctl.engine.resting = true) : State.Linked { s with ctl := c } :=
  linked_of_eq h rfl rfl rfl rfl rfl rfl e rfl id id

theorem linked_enterAbandoning {s : State} (h : s.Linked) : s.enterAbandoning.Linked := by
  have h1 := linked_abortShift (linked_ctl h (c := { s.ctl with engine := .abandoning })
      (by simp [EngineState.resting]))
  have h2 : State.Linked
      { ((s.setEngine .abandoning).abortShift) with
        head := { (((s.setEngine .abandoning).abortShift).tickleOff).head with idleTimer := .stopped } } :=
    linked_head h1 rfl id
  exact linked_ceaseLooking (linked_takeFault (linked_takeFault (linked_printOut h2) _ _ _) _ _ _)

theorem linked_afterReset (a e p n l) : (State.afterReset a e p n l).Linked := by
  apply linked_empty <;> first | rfl | exact ⟨rfl, rfl, rfl, rfl⟩

theorem linked_resetTo {s : State} (a e p c) : (s.resetTo a e p c).Linked := linked_free (linked_afterReset _ _ _ _ _) _
    s.free

theorem linked_setHeadOn {s : State} (h : s.Linked) (n : s.ctl.engine.resting = false) {hd : HeadLink}
    (hs : hd.shift = s.head.shift) : State.Linked { s with head := hd } :=
  linked_frame h rfl rfl hs (.inl rfl) (List.Perm.refl _) h.looking (fun r => by simp_all)

theorem linked_enterReady {s : State} (h : s.Linked) (n : s.ctl.engine.resting = false) : s.enterReady.Linked := by
  have h1 := linked_setHeadOn h n (hd := { s.head with state := .ready, warmupTimer := .stopped }) rfl
  simp only [State.enterReady]; split
  · exact linked_raise h1 _
  · exact linked_head (linked_raise h1 _) rfl id

theorem linked_beginWarmup {s : State} (h : s.Linked) (n : s.ctl.engine.resting = false) : s.beginWarmup.Linked := by
  unfold State.beginWarmup; split
  · exact linked_enterReady h n
  · exact linked_setHeadOn h n rfl

theorem linked_powerHead {s : State} (h : s.Linked) (n : s.ctl.engine.resting = false) : s.powerHead.Linked := by
  unfold State.powerHead; split
  · exact linked_beginWarmup h n
  · exact linked_raise (linked_setHeadOn h n (hd := { s.head with state := .lost }) rfl) _

theorem linked_accept {s : State} (h : s.Linked) : s.accept.Linked := linked_ctl h id

theorem linked_refuse {s : State} (h : s.Linked) : s.refuse.Linked := linked_ctl h id

theorem linked_doStart {s : State} (h : s.Linked) : s.doStart.Linked := by
  have h1 : (s.accept.setEngine .running).Linked := linked_ctl (linked_accept h) (by simp [EngineState.resting])
  unfold State.doStart; split
  · exact linked_rest (linked_oweLook (linked_powerHead h1 rfl))
  · exact linked_rest (linked_oweLook h1)
  all_goals exact linked_refuse h

theorem linked_doStop {s : State} (h : s.Linked) : s.doStop.Linked := by
  have h1 : (s.accept.setEngine .draining).Linked := linked_ctl (linked_accept h) (by simp [EngineState.resting])
  unfold State.doStop; split
  · exact linked_rest (linked_ceaseLooking h1)
  · exact linked_accept h
  all_goals exact linked_refuse h

theorem linked_doHalt {s : State} (h : s.Linked) : s.doHalt.Linked := by
  unfold State.doHalt; repeat' split
  all_goals first
    | (with_reducible exact linked_refuse h)
    | (with_reducible exact linked_accept h)
    | (with_reducible exact linked_rest (linked_enterAbandoning (linked_accept h)))

theorem linked_doSkip {s : State} (h : s.Linked) : s.doSkip.Linked := by
  unfold State.doSkip State.skipCounting; repeat' split
  all_goals first
    | (with_reducible exact linked_refuse h)
    | (with_reducible exact linked_rest (linked_takeFault (linked_accept h) _ _ _))

theorem linked_doLook {s : State} (h : s.Linked) : s.doLook.Linked := by
  unfold State.doLook; repeat' split
  all_goals first
    | (with_reducible exact linked_refuse h)
    | (with_reducible exact linked_rest (linked_oweLook (linked_accept h)))

theorem linked_writeChain {s : State} (h : s.Linked) v : (s.writeChain v).Linked := by
  unfold State.writeChain; split
  · exact linked_walkerKeep (linked_accept h) rfl
  · exact linked_refuse h

theorem linked_writeRegister {s : State} (h : s.Linked) o b v : (s.writeRegister o b v).Linked := by
  unfold State.writeRegister State.writeControl
  repeat' split
  all_goals first
    | exact h
    | (with_reducible exact linked_doStart h)
    | (with_reducible exact linked_doStop h)
    | (with_reducible exact linked_doHalt h)
    | (with_reducible exact linked_doSkip h)
    | (with_reducible exact linked_doLook h)
    | (with_reducible exact linked_refuse h) 
    | (with_reducible exact linked_writeChain h _)
    | exact linked_resetTo _ _ _ _
    | exact linked_ctl h id

theorem linked_endTransaction {s : State} (h : s.Linked) k {bus act} (ha : ∀ tx u, u.Linked → (act tx u).Linked) :
    (s.endTransaction k bus act).Linked := by
  simp only [State.endTransaction]; repeat' split
  · exact h
  · exact linked_rest (ha _ _ (linked_port h _))
  · apply linked_rest
    have h1 := linked_onBus (linked_port h { s.port with current := none })
    unfold State.discard; split
    · obtain ⟨h1,h2,h3,h4,h5,h6,h7,h8,h9,h10,h11,h12,h13,h14⟩ := h1 (bus ‹_›)
      exact ⟨h1,h2,h3,h4,h5,h6,h7,h8,h9,h10,h11,h12,h13,h14⟩
    · exact linked_endLookIdle (h1 _)
    · exact h1 _
  · exact h

theorem linked_endBuilderRead {s : State} (h : s.Linked) k {act} (ha : ∀ u, u.Linked → Engaged u → (act u).Linked) :
    (s.endBuilderRead k act).Linked := by
  apply linked_endTransaction h k
  intro _ u hu; split
  · rename_i r; simp [Builder.reading] at r
    have hj : u.builder.job ≠ none := by intro e; have := (hu.free e).1; rw [this] at r; simp at r
    have hn := held_none hu (by rw [r.1]; simp)
    exact ha _ (linked_mapBuilder hu rfl hj (by simp) hn) ⟨hj, hn⟩
  · exact hu

theorem linked_quiet {s : State} (h : s.Linked) : s.quiet.Linked := linked_free h _ s.free

theorem linked_event {s t : State} {f} (h : s.Linked) (e : event s f = .next t) (hf : ∀ u, u.Linked → (f u).Linked) :
    t.Linked := by
  rw [event_eq e]; split
  · exact linked_quiet h
  · exact hf _ (linked_quiet h)

theorem linked_pins {s : State} (h : s.Linked) p : State.Linked { s with pins := p } := linked_of_eq h rfl rfl rfl rfl
    rfl rfl id rfl id id

theorem linked_pinEvent {s t : State} {p f} (h : s.Linked) (e : pinEvent s p f = .next t)
    (hf : ∀ u, u.Linked → (f u).Linked) : t.Linked :=
  linked_event (linked_pins h p) e hf

theorem linked_orStay {s : State} {o : Option State} (h : s.Linked) (ho : ∀ t, o = some t → t.Linked) :
    (s.orStay o).Linked := by
  unfold State.orStay; split
  · exact h
  · exact linked_rest (ho _ rfl)

theorem resting_of_head {s : State} (h : s.Linked) (e : s.head.state ≠ .off) : s.ctl.engine.resting = false := by
  cases r : s.ctl.engine.resting
  · rfl
  · exact absurd (h.resting r).2.2.2.2.2.1 e

theorem satInc_toNat (x : BitVec 32) (n : Nat) (h : x.toNat = min n (2^32-1)) : (satInc x).toNat = min (n+1) (2^32-1)
    := by
  unfold satInc; split
  · rename_i e; subst e; simp at h ⊢; omega
  · rename_i e
    have : x.toNat ≠ 2^32-1 := by intro hh; apply e; apply BitVec.eq_of_toNat_eq; simp [hh]
    rw [BitVec.toNat_add]; simp; omega

theorem linked_fired {s : State} (h : s.Linked) {c x a b} (e : s.head.shift = .row c x a b) : (s.fired x a b).Linked
    := by
  have key := linked_shiftEnd h (x := x) (hd := (s.fired x a b).head) (f := fun j => j.fired a b)
      (by intro y; simp only [State.shifting, e]; cases x <;> cases y <;> rfl)
    (by intro y; simp [State.fired, State.shifting, State.restartIdle, State.tickleOff, State.endShift])
    (by simp [State.fired, State.restartIdle, State.tickleOff, State.endShift])
    (by intro j; simp [Job.fired]; omega)
    (by intro j hj; exact satInc_toNat _ _ hj)
  exact linked_of_eq key rfl rfl rfl rfl rfl rfl id rfl id id

theorem linked_beginPeriod {s : State} (h : s.Linked) : s.beginPeriod.Linked := by
  simp only [State.beginPeriod, State.startTickleShift]; repeat' split
  · rename_i hi _
    exact linked_shift h (hd := { s.head with shift := .tickle _, shiftTimer := _ })
        (by intro x; simp [State.shifting, hi.2]) id
  · exact h
  · exact h

theorem linked_loseHead {s : State} (h : s.Linked) (n : s.ctl.engine.resting = false) : s.loseHead.Linked := by
  have h1 : s.shiftLost.Linked := shiftLost_keeps (fun _ _ k e => linked_tryHead k e) (linked_abortShift h)
  exact linked_printOut (linked_setHeadOn h1 (by simpa using n)
      (hd := ((s.shiftLost.stopHeadTimers).setHead .lost).head) rfl)

end Sys2Proof.Machine
end

