-- ==== Sys2Proof/Laws/Order.lean ====
section
/-! SUPPORT. The order of the row queue and what is there once (`State.Ordered`), operation by operation. -/

namespace Sys2Proof.Machine

/-! ### The order of the held jobs -/

/-- The same slots are held, in the same order. -/
structure State.SameOrder (s t : State) : Prop where
  older : t.slots.older = s.slots.older
  held : ∀ x, t.job x = none ↔ s.job x = none

theorem State.SameOrder.of_eq {s t : State} (h : t.slots = s.slots) : s.SameOrder t :=
  ⟨by rw [h], fun x => by rw [job_congr h]⟩

theorem State.SameOrder.trans {s t u : State} (h : s.SameOrder t) (k : t.SameOrder u) : s.SameOrder u :=
  ⟨k.older.trans h.older, fun x => (k.held x).trans (h.held x)⟩

theorem State.SameOrder.oldest {s t : State} (h : s.SameOrder t) : t.slots.oldest = s.slots.oldest := by
  obtain ⟨o, h⟩ := h
  have h0 := h .slot0
  have h1 := h .slot1
  simp only [State.job, Slots.get] at h0 h1
  unfold Slots.oldest
  rcases a : t.slots.slot0 <;> rcases b : t.slots.slot1 <;> rcases c : s.slots.slot0 <;> rcases d : s.slots.slot1 <;>
    simp_all

theorem sameOrder_mapJob (s : State) (x) (f : Job → Job) : s.SameOrder (s.mapJob x f) := by
  constructor
  · rw [mapJob_eq]; dsimp only; split
    · rfl
    · cases x <;> rfl
  · intro y; rw [job_mapJob]; split
    · subst y; simp
    · rfl

theorem sameOrder_countIn (s : State) (f) : s.SameOrder (s.countIn f) := by
  unfold State.countIn; split
  · exact .of_eq rfl
  · exact sameOrder_mapJob ..

theorem sameOrder_purge (s : State) (x) : s.SameOrder (s.purge x) := by
  obtain ⟨a, b⟩ := sameOrder_mapJob s x
    fun j => { j with account := { j.account with discarded := j.account.discarded + s.queue.countP (Item.isRowOf x) } }
  exact ⟨a, b⟩

theorem sameOrder_abandon (s : State) (x) : s.SameOrder (s.abandon x) := by
  unfold State.abandon
  refine State.SameOrder.trans ?_ (State.SameOrder.of_eq (s := State.mapJob _ x _) rfl)
  refine State.SameOrder.trans ?_ (sameOrder_mapJob ..)
  exact .of_eq rfl

theorem sameOrder_takeFault (s : State) (x c e) : s.SameOrder (s.takeFault x c e) := by
  unfold State.takeFault; split
  · have h1 := (sameOrder_mapJob s x fun j => { j with fault := some (c, e) }).trans (sameOrder_purge _ x)
    dsimp only
    split <;> split
    · exact (h1.trans (sameOrder_abandon ..)).trans (.of_eq rfl)
    · exact h1.trans (.of_eq rfl)
    · exact h1.trans (sameOrder_abandon ..)
    · exact h1
  · exact .of_eq rfl

theorem sameOrder_abortShift (s : State) : s.SameOrder s.abortShift := by
  unfold State.abortShift; split
  · exact .of_eq rfl
  · exact State.SameOrder.trans (t := s.stopShift) (.of_eq rfl) (sameOrder_mapJob ..)
  · exact .of_eq rfl

theorem sameOrder_countEmitted (s : State) (it) : s.SameOrder (s.countEmitted it) := by
  unfold State.countEmitted; split
  · exact sameOrder_mapJob ..
  all_goals exact .of_eq rfl

/-- Items leave the queue, the builder may let go of its job, and no job is taken or freed. -/
theorem oldestFirst_frame {s t : State} (h : s.OldestFirst) (q : t.queue.Sublist s.queue) (o : s.SameOrder t)
    (b : t.builder.job = s.builder.job ∨ t.builder.job = none) : t.OldestFirst := by
  constructor
  · rw [o.oldest]; exact h.order.sublist q
  · intro x e f; rw [o.oldest]
    rcases b with b | b
    · exact h.newest x (b ▸ e) (fun k => f ((o.held _).2 k))
    · rw [b] at e; cases e

/-- With every item of one slot the order is trivial. -/
theorem oldestFirst_one {s : State} {x} (q : ∀ it ∈ s.queue, it.slot = x)
    (n : ∀ y, s.builder.job = some y → s.job (otherSlot y) ≠ none → s.slots.oldest = some (otherSlot y)) :
    s.OldestFirst :=
  ⟨List.pairwise_of_forall_mem_list fun a ha b hb _ => (q a ha).trans (q b hb).symm, n⟩

/-- Slots come in twos. -/
theorem eq_other {x y : SlotId} (h : y ≠ x) : y = otherSlot x := by cases x <;> cases y <;> simp_all [otherSlot]

/-- An item of the building job enters at the tail. -/
theorem oldestFirst_enqueue {s : State} (h : s.OldestFirst) (l : s.Linked) {it : Item}
    (b : s.builder.job = some it.slot) : (s.enqueue it).OldestFirst := by
  have o : s.SameOrder (s.enqueue it) := (sameOrder_countEmitted s it).trans (.of_eq rfl)
  have q : (s.enqueue it).queue = s.queue ++ [it] := by simp [State.enqueue]
  constructor
  · rw [o.oldest, q, List.pairwise_append]
    refine ⟨h.order, by simp, fun a ha c hc e => ?_⟩
    simp at hc; subst hc
    by_contra ne
    obtain ⟨j, hj, -⟩ := l.items a ha
    have ho := h.newest _ b (by rw [← eq_other ne, hj]; simp)
    rw [ho] at e; exact otherSlot_ne _ (Option.some.inj e)
  · intro x e f; rw [o.oldest]
    have e' : s.builder.job = some x := by
      have : (s.enqueue it).builder.job = s.builder.job := by simp [State.enqueue]
      rw [← this]; exact e
    exact h.newest x e' (fun k => f ((o.held _).2 k))

/-! ### One SWAP, one SETUP, one read -/

theorem swaps_sublist {s t : State} (q : t.queue.Sublist s.queue) : t.swaps ≤ s.swaps := q.countP_le

theorem setups_sublist {s t : State} (q : t.queue.Sublist s.queue) : t.setups ≤ s.setups := q.countP_le

/-- Items leave the queue. -/
theorem oneAtATime_frame {s t : State} (h : s.OneAtATime) (q : t.queue.Sublist s.queue) (b : t.builder = s.builder)
    (p : t.port = s.port) : t.OneAtATime := by
  have w := swaps_sublist q
  have u := setups_sublist q
  have aw : ∀ k, t.awaits k ↔ s.awaits k := fun k => by simp [State.awaits, b, p]
  obtain ⟨h1, h2, h3, h4, h5, h6, h7, h8, h9, h10, h11⟩ := h
  constructor
  · omega
  · omega
  · rw [b]; intro x e; have := h3 x e; omega
  · rw [b]; exact h4
  · rw [aw]; intro a; have := h5 a; omega
  · rw [aw]; intro a; have := h6 a; omega
  · rw [b]; intro a; have := h7 a; omega
  · rw [b, p]; exact h8
  · rw [b]; exact h9
  · rw [p]; exact h10
  · rw [p]; exact h11

/-- No read of the builder is wanted by anyone. -/
def State.Unread (s : State) : Prop :=
  s.builder.want = none ∧ ∀ t, (s.port.current = some t ∨ s.port.builderReq = some t) → t.requester = .builder →
    t.wanted = false

/-- Outside FETCHING the builder wants no read. -/
theorem OneAtATime_unread {s : State} (h : s.OneAtATime) (n : s.builder.state ≠ .fetching) : s.Unread := by
  refine ⟨?_, fun t ht hr => ?_⟩
  · cases e : s.builder.want with
    | none => rfl
    | some t => exact absurd (h.wanting t e).1 n
  · cases w : t.wanted with
    | false => rfl
    | true => exact absurd (h.fetching t ht w hr).1 n

theorem unread_awaits {s : State} (h : s.Unread) {k : TxKind} (r : k.requester = .builder) : ¬s.awaits k := by
  rintro ⟨t, e, w, c⟩
  have hr : t.requester = .builder := by unfold Transaction.requester; rw [e]; exact r
  rcases c with c | c | c
  · rw [h.2 t (.inl c) hr] at w; cases w
  · rw [h.2 t (.inr c) hr] at w; cases w
  · rw [h.1] at c; cases c

/-- A builder that wants no read: what is left to say. -/
theorem oneAtATime_unread {s : State} (u : s.Unread) (w : s.swaps ≤ 1) (p : s.setups ≤ 1)
    (hw : ∀ x, s.builder.held = some (.swap x) → s.swaps = 0)
    (hs : ∀ x, s.builder.held = some (.setup x) → s.builder.task = .setupItem)
    (j : s.builder.task.judges = true → s.setups = 0)
    (one : s.port.builderReq ≠ none → s.port.currentOf .builder = false)
    (r : ∀ r t, s.port.waiting r = some t → t.requester = r) : s.OneAtATime := by
  refine ⟨w, p, hw, hs, fun a => absurd a (unread_awaits u rfl), fun a => absurd a (unread_awaits u rfl), j, ?_, ?_, one,
    r⟩
  · intro t ht w hr; rw [u.2 t ht hr] at w; cases w
  · intro t e; rw [u.1] at e; cases e

/-- The builder changes, and stands outside FETCHING before and after. -/
theorem oneAtATime_builder {s t : State} (h : s.OneAtATime) (n : s.builder.state ≠ .fetching)
    (q : t.queue = s.queue) (p : t.port = s.port) (w : t.builder.want = none) (hd : t.builder.held = none)
    (j : t.builder.task.judges = true → s.setups = 0) : t.OneAtATime := by
  have u := OneAtATime_unread h n
  have e1 : t.swaps = s.swaps := by simp [State.swaps, q]
  have e2 : t.setups = s.setups := by simp [State.setups, q]
  refine oneAtATime_unread ⟨w, by rw [p]; exact u.2⟩ (e1 ▸ h.swaps) (e2 ▸ h.setups) ?_ ?_ (by rw [e2]; exact j)
    (by rw [p]; exact h.one) (by rw [p]; exact h.requests)
  · rw [hd]; intro x e; cases e
  · rw [hd]; intro x e; cases e

theorem disowned_requester (t : Transaction) : t.disowned.requester = t.requester := rfl

/-- What the port holds after one block's transaction is disowned. -/
theorem disown_waiting (p : Port) (r q : Requester) :
    (p.disown r).waiting q = if q = r then (p.waiting r).map Transaction.disowned else p.waiting q := by
  cases r <;> cases q <;> rfl

theorem disown_current (p : Port) (r : Requester) : (p.disown r).current =
    if p.currentOf r then p.current.map Transaction.disowned else p.current := by
  cases r <;> rfl

theorem disown_currentOf (p : Port) (r q : Requester) : (p.disown r).currentOf q = p.currentOf q := by
  unfold Port.currentOf; rw [disown_current]; cases h : p.current with
  | none => simp
  | some t => by_cases k : p.currentOf r = true <;> simp [k, Transaction.requester, Transaction.disowned]

theorem disown_requests {p : Port} (h : ∀ r t, p.waiting r = some t → t.requester = r) (q : Requester) :
    ∀ r t, (p.disown q).waiting r = some t → t.requester = r := by
  intro r t; rw [disown_waiting]; split
  · subst r; intro e; simp only [Option.map_eq_some_iff] at e
    obtain ⟨u, hu, rfl⟩ := e; exact h _ u hu
  · exact h r t

/-- The walker's transaction is disowned: nothing of the builder's changes. -/
theorem oneAtATime_disownWalker {s : State} (h : s.OneAtATime) {w : Walker} :
    State.OneAtATime { s with port := s.port.disown .walker, walker := w } := by
  have c : ∀ t, t.requester = .builder → ((s.port.disown .walker).current = some t ↔ s.port.current = some t) := by
    intro t ht; rw [disown_current]; split
    · rename_i k; unfold Port.currentOf at k
      cases e : s.port.current with
      | none => simp
      | some u =>
        rw [e] at k; simp at k
        constructor
        · intro f; cases f; rw [disowned_requester] at ht; simp_all
        · intro f; cases f; simp_all
    · rfl
  have aw : ∀ k : TxKind, k.requester = .builder →
      (State.awaits { s with port := s.port.disown .walker, walker := w } k ↔ s.awaits k) := by
    intro k hk; unfold State.awaits; constructor
    · rintro ⟨t, e, ww, f⟩
      refine ⟨t, e, ww, ?_⟩
      rw [c t (by unfold Transaction.requester; rw [e]; exact hk)] at f; exact f
    · rintro ⟨t, e, ww, f⟩
      refine ⟨t, e, ww, ?_⟩
      rw [c t (by unfold Transaction.requester; rw [e]; exact hk)]; exact f
  obtain ⟨h1, h2, h3, h4, h5, h6, h7, h8, h9, h10, h11⟩ := h
  refine ⟨h1, h2, h3, h4, fun a => h5 ((aw _ rfl).1 a), fun a => h6 ((aw _ rfl).1 a), h7, ?_, h9, ?_, disown_requests h11 _⟩
  · intro t ht ww hr; rw [c t hr] at ht; exact h8 t ht ww hr
  · intro e; dsimp only; rw [disown_currentOf]; exact h10 e

/-! ### One release -/

/-- No release is added, and a look that holds none does not begin. -/
theorem oneRelease_frame {s t : State} (h : s.OneRelease) (r : t.releases ≤ s.releases)
    (g : t.walker.stage = s.walker.stage ∨ t.walker.stage.holdsNone = false) : t.OneRelease := by
  constructor
  · exact Nat.le_trans r h.releases
  · intro e; rcases g with g | g
    · rw [g] at e; have := h.looking e; omega
    · rw [g] at e; cases e

theorem releases_congr {s t : State} (h : t.writer = s.writer) : t.releases = s.releases := by
  simp [State.releases, h]

/-! ### The three together -/

/-- Items leave the queue; the builder, the port and the walker's look stand as they stood. -/
theorem ordered_frame {s t : State} (h : s.Ordered) (q : t.queue.Sublist s.queue) (o : s.SameOrder t)
    (b : t.builder = s.builder) (p : t.port = s.port) (r : t.releases ≤ s.releases)
    (g : t.walker.stage = s.walker.stage ∨ t.walker.stage.holdsNone = false) : t.Ordered :=
  ⟨oldestFirst_frame h.first q o (.inl (by rw [b])), oneAtATime_frame h.once q b p, oneRelease_frame h.release r g⟩

/-- Nothing of it changes. -/
theorem ordered_of_eq {s t : State} (h : s.Ordered) (q : t.queue = s.queue) (o : t.slots = s.slots)
    (b : t.builder = s.builder) (p : t.port = s.port) (w : t.writer = s.writer)
    (g : t.walker.stage = s.walker.stage) : t.Ordered :=
  ordered_frame h (by rw [q]) (.of_eq o) b p (releases_congr w).le (.inl g)

theorem ordered_mapJob {s : State} (h : s.Ordered) (x) (f : Job → Job) : (s.mapJob x f).Ordered :=
  ordered_frame h (by simp) (sameOrder_mapJob ..) (by simp) (by simp) (releases_congr (by simp)).le (.inl (by simp))

theorem ordered_countIn {s : State} (h : s.Ordered) (f) : (s.countIn f).Ordered :=
  ordered_frame h (by simp) (sameOrder_countIn ..) (by simp) (by simp) (releases_congr (by simp)).le (.inl (by simp))

theorem ordered_abortShift {s : State} (h : s.Ordered) : s.abortShift.Ordered :=
  ordered_frame h (by simp) (sameOrder_abortShift s) (by simp) (by simp) (releases_congr (by simp)).le (.inl (by simp))

/-- The port after the builder abandons its job: every read of it is unwanted. -/
theorem abandon_unread {s : State} (h : s.OneAtATime) (x) : (s.abandon x).Unread ∧
    ((s.abandon x).port.builderReq ≠ none → (s.abandon x).port.currentOf .builder = false) ∧
    ∀ r t, (s.abandon x).port.waiting r = some t → t.requester = r := by
  have pe : (s.abandon x).port = if s.builder.reading then s.port.disown .builder else s.port := by
    simp [State.abandon, State.oweLook]
  have be : (s.abandon x).builder.want = none := by simp [State.abandon, State.oweLook, Builder.reset]
  rw [State.Unread, be, pe]
  split
  · refine ⟨⟨rfl, ?_⟩, ?_, disown_requests h.requests _⟩
    · rintro t (e | e) hr
      · rw [disown_current] at e; split at e
        · simp only [Option.map_eq_some_iff] at e; obtain ⟨u, -, rfl⟩ := e; rfl
        · rename_i k; unfold Port.currentOf at k; rw [e] at k; simp at k; exact absurd hr k
      · have := disown_waiting s.port .builder .builder
        rw [if_pos rfl] at this
        rw [show (s.port.disown .builder).builderReq = _ from this] at e
        simp only [Option.map_eq_some_iff] at e; obtain ⟨u, -, rfl⟩ := e; rfl
    · intro e; rw [disown_currentOf]; apply h.one
      intro k; apply e
      have := disown_waiting s.port .builder .builder
      rw [if_pos rfl] at this
      rw [show (s.port.disown .builder).builderReq = _ from this, show s.port.waiting .builder = none from k]; rfl
  · rename_i n
    refine ⟨⟨rfl, fun t ht hr => ?_⟩, h.one, h.requests⟩
    cases w : t.wanted with
    | false => rfl
    | true =>
      have := h.fetching t ht w hr
      exact absurd (by simp [Builder.reading, this]) n

theorem ordered_abandon {s : State} (h : s.Ordered) (x) : (s.abandon x).Ordered := by
  obtain ⟨u, one, req⟩ := abandon_unread h.once x
  have q : (s.abandon x).queue = s.queue := by simp
  obtain ⟨o, b⟩ := abandon_builder s x
  refine ⟨oldestFirst_frame h.first (by simp) (sameOrder_abandon s x) (.inr (by rw [b]; rfl)),
    oneAtATime_unread u ?_ ?_ ?_ ?_ ?_ one req, oneRelease_frame h.release (releases_congr (by simp)).le (.inl ?_)⟩
  · simpa [State.swaps, q] using h.once.swaps
  · simpa [State.setups, q] using h.once.setups
  · rw [b]; intro x e; cases e
  · rw [b]; intro x e; cases e
  · rw [b]; intro e; cases e
  · simp [State.abandon, State.oweLook]

theorem ordered_purge {s : State} (h : s.Ordered) (x) : (s.purge x).Ordered :=
  ordered_frame h (by rw [purge_queue]; exact List.filter_sublist) (sameOrder_purge s x) (by simp) (by simp)
    (releases_congr (by simp)).le (.inl (by simp))

theorem ordered_printOut {s : State} (h : s.Ordered) : s.printOut.Ordered := ordered_of_eq h rfl rfl rfl rfl rfl rfl

theorem ordered_takeFault {s : State} (h : s.Ordered) (x c e) : (s.takeFault x c e).Ordered := by
  unfold State.takeFault; split
  · have h1 := ordered_purge (ordered_mapJob h x fun j => { j with fault := some (c, e) }) x
    dsimp only
    split <;> split
    · exact ordered_printOut (ordered_abandon h1 _)
    · exact ordered_printOut h1
    · exact ordered_abandon h1 _
    · exact h1
  · exact h

theorem ordered_faultBuilding {s : State} (h : s.Ordered) (c e) : (s.faultBuilding c e).Ordered := by
  unfold State.faultBuilding; split
  · exact h
  · exact ordered_takeFault h _ _ _

theorem ordered_faultCounting {s : State} (h : s.Ordered) (c) : (s.faultCounting c).Ordered := by
  unfold State.faultCounting; split
  · exact h
  · exact ordered_takeFault h _ _ _

/-! ### The builder -/

/-- The builder goes on outside FETCHING, with the same job. -/
theorem ordered_mapBuilder {s : State} (h : s.Ordered) (n : s.builder.state ≠ .fetching) {f : Builder → Builder}
    (a : (f s.builder).job = s.builder.job) (w : (f s.builder).want = s.builder.want)
    (hd : (f s.builder).held = none) (j : (f s.builder).task.judges = true → s.setups = 0) :
    (s.mapBuilder f).Ordered :=
  ⟨oldestFirst_frame h.first (List.Sublist.refl _) (.of_eq rfl) (.inl a),
    oneAtATime_builder h.once n rfl rfl (w.trans (OneAtATime_unread h.once n).1) hd j,
    oneRelease_frame h.release (Nat.le_refl _) (.inl rfl)⟩

/-- The builder acts: it stands outside FETCHING and holds no item. -/
def Acting (s : State) : Prop := s.builder.state ≠ .fetching ∧ s.builder.held = none

theorem ordered_walkOn {s : State} (h : s.Ordered) (b : Acting s) {t : BuildTask} (j : t.judges = true → s.setups = 0) :
    (s.walkOn t).Ordered := ordered_mapBuilder h b.1 rfl rfl b.2 j

theorem ordered_walkPlain {s : State} (h : s.Ordered) (b : Acting s) {t : BuildTask} (j : t.judges = false) :
    (s.walkOn t).Ordered := ordered_walkOn h b (fun e => by rw [j] at e; cases e)

theorem ordered_walkAt {s : State} (h : s.Ordered) (b : Acting s) (i) : (s.walkAt i).Ordered :=
  ordered_mapBuilder h b.1 rfl rfl b.2 (fun e => by cases e)

theorem ordered_walkAtWith {s : State} (h : s.Ordered) (b : Acting s) (i c) : (s.walkAtWith i c).Ordered :=
  ordered_mapBuilder (f := fun b => { b with stack := c, state := .walking, task := .entry, index := i }) h b.1 rfl rfl
    b.2 (fun e => by cases e)

theorem ordered_waitStage {s : State} (h : s.Ordered) (b : Acting s) :
    (s.mapBuilder fun b => { b with state := .waitStage }).Ordered :=
  ordered_mapBuilder h b.1 rfl rfl b.2 h.once.judging

theorem setWaiting_waiting (p : Port) (r q : Requester) (t) :
    (p.setWaiting r t).waiting q = if q = r then t else p.waiting q := by
  cases r <;> cases q <;> rfl

theorem setWaiting_current (p : Port) (r : Requester) (t) : (p.setWaiting r t).current = p.current := by cases r <;> rfl

/-- A request keeps the requests with their requesters. -/
theorem setWaiting_requests {p : Port} (h : ∀ r t, p.waiting r = some t → t.requester = r) {q} {o : Option Transaction}
    (ho : ∀ t, o = some t → t.requester = q) : ∀ r t, (p.setWaiting q o).waiting r = some t → t.requester = r := by
  intro r t; rw [setWaiting_waiting]; split
  · subst r; exact ho t
  · exact h r t

/-- The builder requests a read. -/
theorem oneAtATime_request {s : State} {t : Transaction} (r : t.requester = .builder)
    (st : s.builder.state = .fetching) (w : s.builder.want = none) (o : s.port.outstanding .builder = false)
    (hd : s.builder.held = none) (h1 : s.swaps ≤ 1) (h2 : s.setups ≤ 1)
    (hw : t.kind = .tableRead → t.wanted = true → s.swaps = 0)
    (hs : t.kind = .setupBlockRead → t.wanted = true → s.setups = 0)
    (j : s.builder.task.judges = true → s.setups = 0)
    (req : ∀ r t, s.port.waiting r = some t → t.requester = r) : (s.request t).OneAtATime := by
  unfold Port.outstanding at o; simp at o
  have br : (s.request t).port.builderReq = some t := by
    have := setWaiting_waiting s.port t.requester .builder (some t)
    rw [if_pos r.symm] at this; exact this
  have cu : (s.request t).port.current = s.port.current := setWaiting_current ..
  have co : ∀ u, s.port.current = some u → u.requester ≠ .builder := by
    intro u e; have := o.2; unfold Port.currentOf at this; rw [e] at this; simpa using this
  have aw : ∀ k : TxKind, k.requester = .builder → (s.request t).awaits k → t.kind = k ∧ t.wanted = true := by
    rintro k hk ⟨u, e, uw, f⟩
    rw [br, cu] at f
    rcases f with f | f | f
    · exact absurd (by unfold Transaction.requester; rw [e]; exact hk) (co u f)
    · cases f; exact ⟨e, uw⟩
    · rw [show (s.request t).builder.want = s.builder.want from rfl, w] at f; cases f
  refine ⟨h1, h2, ?_, ?_, fun a => hw (aw _ rfl a).1 (aw _ rfl a).2, fun a => hs (aw _ rfl a).1 (aw _ rfl a).2, j,
    fun u _ _ _ => ⟨st, w⟩, ?_, ?_, ?_⟩
  · intro x e; rw [show (s.request t).builder.held = s.builder.held from rfl, hd] at e; cases e
  · intro x e; rw [show (s.request t).builder.held = s.builder.held from rfl, hd] at e; cases e
  · intro u e; rw [show (s.request t).builder.want = s.builder.want from rfl, w] at e; cases e
  · intro _; unfold Port.currentOf; rw [cu]; exact o.2
  · exact setWaiting_requests req (fun u e => by cases e; rfl)

theorem ordered_requestRead {s : State} (h : s.Ordered) (b : Acting s) {k : TxKind} (r : k.requester = .builder) {a n}
    (hw : k = .tableRead → s.swaps = 0) (hs : k = .setupBlockRead → s.setups = 0) : (s.requestRead k a n).Ordered := by
  obtain ⟨u1, u2⟩ := OneAtATime_unread h.once b.1
  simp only [State.requestRead]
  split
  · refine ⟨oldestFirst_frame h.first (List.Sublist.refl _) (.of_eq rfl) (.inl rfl), ?_,
      oneRelease_frame h.release (Nat.le_refl _) (.inl rfl)⟩
    obtain ⟨h1, h2, h3, h4, h5, h6, h7, h8, h9, h10, h11⟩ := h.once
    have aw : ∀ k' : TxKind, k'.requester = .builder → State.awaits (s.mapBuilder fun b =>
        { b with state := .fetching, want := some ⟨k, a, n, 0#32, true⟩ }) k' → k = k' := by
      rintro k' hk ⟨t, e, w, f⟩
      have hr : t.requester = .builder := by unfold Transaction.requester; rw [e]; exact hk
      rcases f with f | f | f
      · rw [u2 t (.inl f) hr] at w; cases w
      · rw [u2 t (.inr f) hr] at w; cases w
      · cases f; exact e
    refine ⟨h1, h2, ?_, ?_, fun a => hw (aw _ rfl a), fun a => hs (aw _ rfl a), h7, ?_, ?_, h10, h11⟩
    · intro x e; cases b.2.symm.trans e
    · intro x e; cases b.2.symm.trans e
    · intro t ht w hr; rw [u2 t ht hr] at w; cases w
    · intro t e; cases e; exact ⟨rfl, r⟩
  · rename_i o
    refine ⟨oldestFirst_frame h.first (List.Sublist.refl _) (.of_eq rfl) (.inl rfl), ?_,
      oneRelease_frame h.release (Nat.le_refl _) (.inl rfl)⟩
    exact oneAtATime_request (s := s.mapBuilder fun b => { b with state := .fetching, want := none }) r rfl rfl
      (by simpa using o) b.2 h.once.swaps h.once.setups (fun e _ => hw e) (fun e _ => hs e) h.once.judging h.once.requests

theorem ordered_requestEntry {s : State} (h : s.Ordered) (b : Acting s) (i) : (s.requestEntry i).Ordered :=
  ordered_requestRead h b rfl (fun e => by cases e) (fun e => by cases e)

theorem none_of_any {l : List Item} {p : Item → Bool} (h : ¬l.any p = true) : l.countP p = 0 := by
  rw [List.countP_eq_zero]; intro a ha k; exact h (List.any_eq_true.mpr ⟨a, ha, k⟩)

theorem ordered_startTable {s : State} (h : s.Ordered) (b : Acting s) (a) : (s.startTable a).Ordered := by
  unfold State.startTable; split
  · exact ordered_waitStage h b
  · exact ordered_requestRead h b rfl (fun _ => none_of_any ‹_›) (fun e => by cases e)

theorem ordered_startSetupBlock {s : State} (h : s.Ordered) (b : Acting s) : s.startSetupBlock.Ordered := by
  unfold State.startSetupBlock; split
  · exact ordered_waitStage h b
  · exact ordered_requestRead h b rfl (fun e => by cases e) (fun _ => none_of_any ‹_›)

theorem ordered_endWalk {s : State} (h : s.Ordered) (b : Acting s) (i) : (s.endWalk i).Ordered := by
  unfold State.endWalk; split
  · exact ordered_walkOn h b (fun e => by cases e)
  · exact ordered_faultBuilding h _ _

/-! ### Items that enter the queue -/

/-- What is left of the builder when its item has entered: it stands outside FETCHING, holds nothing, and has not begun
to judge a setup block. -/
theorem entered_builder (s : State) (t) (w : s.builder.want = none)
    (hd : s.builder.held = none) (e : s.builder.task = t) :
    (s.entered t).builder.want = none ∧ (s.entered t).builder.held = none ∧
    ((s.entered t).builder.task.judges = true → ∃ p, t = .setupMap p) ∧
    ((s.entered t).builder.job = s.builder.job ∨ (s.entered t).builder.job = none) ∧ s.SameOrder (s.entered t) := by
  cases t <;> simp only [State.entered]
  case finish =>
    unfold State.endBuilding; split
    · exact ⟨rfl, rfl, (fun e => by cases e), .inr rfl, .of_eq rfl⟩
    · refine ⟨by simp [State.oweLook, Builder.reset], by simp [State.oweLook, Builder.reset], ?_, .inr ?_, ?_⟩
      · intro e; simp [State.oweLook, Builder.reset, BuildTask.judges] at e
      · simp [State.oweLook, Builder.reset]
      · obtain ⟨a, b⟩ := sameOrder_mapJob { s with builder := { Builder.reset with orphan := s.builder.orphan } } _
          fun j => { j with phase := .built }
        exact ⟨a, b⟩
  case setupMap p => exact ⟨w, hd, fun _ => ⟨p, rfl⟩, (by first | exact .inl rfl | simp), .of_eq rfl⟩
  case none | entry | extension | closeSlot | setupBlock =>
    refine ⟨w, hd, fun k => ?_, (by first | exact .inl rfl | simp), .of_eq rfl⟩
    rw [e] at k; cases k
  case image | overlay | blank =>
    split <;> exact ⟨w, hd, (fun k => by cases k), .inl rfl, .of_eq rfl⟩
  all_goals exact ⟨w, hd, (fun k => by cases k), .inl rfl, .of_eq rfl⟩

/-- An item of the building job enters the queue. -/
theorem ordered_enterHeld {s : State} (h : s.Ordered) (l : s.Linked) (n : s.builder.state ≠ .fetching) {it : Item}
    (b : s.builder.job = some it.slot) (hw : it.isSwap = true → s.swaps = 0)
    (hs : it.isSetup = true → s.setups = 0 ∧ s.builder.task = .setupItem) : (s.enterHeld it).Ordered := by
  obtain ⟨u1, u2⟩ := OneAtATime_unread h.once n
  have hq : (s.enqueue it).queue = s.queue ++ [it] := by simp [State.enqueue]
  have hb : (s.enqueue it).builder = { s.builder with stack := markEmitted s.builder.stack, held := none } := by
    simp [State.enqueue]
  have hp : (s.enqueue it).port = s.port := by simp
  obtain ⟨w, hd, j, jb, so⟩ := entered_builder (s.enqueue it) s.builder.task (by rw [hb]; exact u1) (by rw [hb])
    (by rw [hb])
  have q : (s.enterHeld it).queue = s.queue ++ [it] := by simp [State.enterHeld, State.enqueue]
  have p : (s.enterHeld it).port = s.port := by simp
  have e1 : (s.enterHeld it).swaps = s.swaps + if it.isSwap then 1 else 0 := by
    simp [State.swaps, q, List.countP_append, List.countP_cons]
  have e2 : (s.enterHeld it).setups = s.setups + if it.isSetup then 1 else 0 := by
    simp [State.setups, q, List.countP_append, List.countP_cons]
  refine ⟨oldestFirst_frame (oldestFirst_enqueue h.first l b) (by simp [State.enterHeld]) so jb,
    oneAtATime_unread ⟨w, by rw [p]; exact u2⟩ ?_ ?_ ?_ ?_ ?_ (by rw [p]; exact h.once.one)
      (by rw [p]; exact h.once.requests),
    oneRelease_frame h.release (releases_congr (by simp)).le (.inl ?_)⟩
  · rw [e1]; have := h.once.swaps; split
    · rw [hw ‹_›]
    · exact this
  · rw [e2]; have := h.once.setups; split
    · rw [(hs ‹_›).1]
    · exact this
  · intro x e; rw [show (s.enterHeld it).builder.held = none from hd] at e; cases e
  · intro x e; rw [show (s.enterHeld it).builder.held = none from hd] at e; cases e
  · intro e; obtain ⟨m, hm⟩ := j e
    rw [e2]; split
    · have := (hs ‹_›).2; rw [hm] at this; cases this
    · have := h.once.judging (by rw [hm]; rfl); omega
  · have : ∀ (u : State) t, (u.entered t).walker.stage = u.walker.stage := by
      intro u t; unfold State.entered State.endBuilding; repeat' split
      all_goals first | rfl | simp [State.oweLook]
    rw [show (s.enterHeld it).walker.stage = _ from this ..]; simp [State.enqueue]

theorem ordered_emit {s : State} (h : s.Ordered) (l : s.Linked) (n : s.builder.state ≠ .fetching) {it : Item}
    (b : s.builder.job = some it.slot) (hw : it.isSwap = true → s.swaps = 0)
    (hs : it.isSetup = true → s.setups = 0 ∧ s.builder.task = .setupItem) : (s.emit it).Ordered := by
  unfold State.emit; split
  · exact ordered_enterHeld h l n b hw hs
  · obtain ⟨u1, u2⟩ := OneAtATime_unread h.once n
    refine ⟨oldestFirst_frame h.first (List.Sublist.refl _) (.of_eq rfl) (.inl rfl),
      oneAtATime_unread ⟨u1, u2⟩ h.once.swaps h.once.setups ?_ ?_ h.once.judging h.once.one h.once.requests,
      oneRelease_frame h.release (Nat.le_refl _) (.inl rfl)⟩
    · intro x e; cases e; exact hw rfl
    · intro x e; cases e; exact (hs rfl).2

theorem ordered_actOn {s : State} (h : s.Ordered) (l : s.Linked) (b : Acting s) {x} (hx : s.builder.job = some x) {t}
    (ht : s.builder.task = t) : (s.actOn x t).Ordered := by
  unfold State.actOn; repeat' split
  all_goals first
    | exact h
    | (with_reducible exact ordered_endWalk h b _)
    | (with_reducible exact ordered_requestEntry h b _)
    | (with_reducible exact ordered_startTable h b _)
    | (with_reducible exact ordered_startSetupBlock h b)
    | (with_reducible exact ordered_requestRead h b rfl (fun e => by cases e) (fun e => by cases e))
    | exact ordered_emit h l b.1 hx (fun e => by cases e) (fun _ => ⟨h.once.judging (by rw [ht]; rfl), ht⟩)
    | exact ordered_emit h l b.1 hx (fun e => by cases e) (fun e => by cases e)

/-! ### The walk -/

theorem ordered_illegalEntry {s : State} (h : s.Ordered) i : (s.illegalEntry i).Ordered := ordered_faultBuilding h _ _

theorem ordered_fetchError {s : State} (h : s.Ordered) i : (s.fetchError i).Ordered := ordered_faultBuilding h _ _

theorem ordered_startImage {s : State} (h : s.Ordered) (b : Acting s) e : (s.startImage e).Ordered := by
  unfold State.startImage; split
  · exact ordered_walkOn h b (fun e => by cases e)
  · exact ordered_illegalEntry h _

theorem ordered_countPass {s : State} (h : s.Ordered) c : (s.countPass c).Ordered := by
  unfold State.countPass; split
  · exact ordered_mapJob h _ _
  · exact h

theorem acting_countPass {s : State} (b : Acting s) c : Acting (s.countPass c) := by
  unfold State.countPass; split
  · simpa [Acting] using b
  · exact b

theorem ordered_walkEntry {s : State} (h : s.Ordered) (b : Acting s) e c : (s.walkEntry e c).Ordered := by
  unfold State.walkEntry State.walkImage State.walkBlank State.walkWaitMark State.walkTable State.walkOpen
    State.walkClose State.walkExit State.walkEnd
  repeat' split
  all_goals first
    | (with_reducible exact ordered_illegalEntry h _)
    | (with_reducible exact ordered_walkPlain h b (by simp [BuildTask.judges]))
    | (with_reducible exact ordered_startImage h b _)
    | (with_reducible exact ordered_walkAt h b _)
    | (with_reducible exact ordered_faultBuilding h _ _)
    | (with_reducible exact ordered_walkAtWith h b _ _)
    | (with_reducible exact ordered_endWalk h b _)
    | (with_reducible exact ordered_walkAtWith (ordered_countPass h _) (acting_countPass b _) _ _)

theorem ordered_walkPair {s : State} (h : s.Ordered) (b : Acting s) e f c : (s.walkPair e f c).Ordered := by
  unfold State.walkPair; repeat' split
  all_goals first
    | (with_reducible exact ordered_illegalEntry h _)
    | (with_reducible exact ordered_walkPlain h b (by simp [BuildTask.judges]))
    | (with_reducible exact ordered_walkAt h b _)

theorem ordered_walkOpened {s : State} (h : s.Ordered) (b : Acting s) e f : (s.walkOpened e f).Ordered := by
  unfold State.walkOpened; repeat' split
  all_goals first
    | (with_reducible exact ordered_faultBuilding h _ _)
    | (with_reducible exact ordered_walkAt h b _)
    | (with_reducible exact ordered_walkAtWith h b _ _)

theorem ordered_entryRead {s : State} (h : s.Ordered) (b : Acting s) r c : (s.entryRead r c).Ordered := by
  unfold State.entryRead; repeat' split
  all_goals first
    | exact h
    | (with_reducible exact ordered_fetchError h _)
    | (with_reducible exact ordered_walkEntry h b _ _)
    | (with_reducible exact ordered_walkPair h b _ _ _)
    | (with_reducible exact ordered_walkOpened h b _ _)

theorem ordered_emitRow {s : State} (h : s.Ordered) (l : s.Linked) (b : Acting s) d : (s.emitRow d).Ordered := by
  unfold State.emitRow; split
  · exact h
  · exact ordered_emit h l b.1 (by assumption) (fun e => by cases e) (fun e => by cases e)

theorem ordered_rowRead {s : State} (h : s.Ordered) (l : s.Linked) (b : Acting s) r : (s.rowRead r).Ordered := by
  unfold State.rowRead; repeat' split
  all_goals first
    | exact h
    | (with_reducible exact ordered_fetchError h _)
    | (with_reducible exact ordered_emitRow h l b _)
    | (with_reducible exact ordered_walkPlain h b (by simp [BuildTask.judges]))

theorem ordered_overlayRead {s : State} (h : s.Ordered) (l : s.Linked) (b : Acting s) r : (s.overlayRead r).Ordered := by
  unfold State.overlayRead; repeat' split
  all_goals first
    | exact h
    | (with_reducible exact ordered_fetchError h _)
    | (with_reducible exact ordered_emitRow h l b _)

/-- A table read ends: no SWAP stands in the queue (R37). -/
theorem ordered_tableRead {s : State} (h : s.Ordered) (l : s.Linked) (b : Acting s) (w : s.swaps = 0) r :
    (s.tableRead r).Ordered := by
  unfold State.tableRead; split
  · exact ordered_fetchError h _
  · rename_i ws
    have h1 : State.Ordered { s with mapper := s.mapper.loadStandby (dropTableOf ws) } :=
      ordered_of_eq h rfl rfl rfl rfl rfl rfl
    unfold State.emitSwap; split
    · exact h1
    · rename_i x hx
      exact ordered_emit (it := .swap x) h1 (linked_mapper l _) b.1 hx (fun _ => w) (fun e => by cases e)

theorem ordered_stage {s : State} (h : s.Ordered) (b : Acting s) (w : s.setups = 0) g : (s.stage g).Ordered :=
  ordered_walkOn (s := { s with staging := g }) (ordered_of_eq h rfl rfl rfl rfl rfl rfl) b (fun _ => w)

/-- A setup block read ends: no SETUP stands in the queue (R39). -/
theorem ordered_setupBlockRead {s : State} (h : s.Ordered) (b : Acting s) (w : s.setups = 0) r :
    (s.setupBlockRead r).Ordered := by
  simp only [State.setupBlockRead]; repeat' split
  · exact ordered_fetchError h _
  · exact ordered_faultBuilding h _ _
  · exact ordered_stage h b w _
  · exact ordered_walkOn h b (fun _ => w)

theorem ordered_mapRead {s : State} (h : s.Ordered) (b : Acting s) r : (s.mapRead r).Ordered := by
  unfold State.mapRead; repeat' split
  · exact ordered_fetchError h _
  · rename_i e _; exact ordered_stage h b (h.once.judging (by rw [e]; rfl)) _
  · exact ordered_faultBuilding h _ _
  · exact h

/-! ### The firing section, the tracker and the head link -/

theorem ordered_tail {s : State} (h : s.Ordered) {l} (q : l.Sublist s.queue) : State.Ordered { s with queue := l } :=
  ordered_frame h q (.of_eq rfl) rfl rfl (Nat.le_refl _) (.inl rfl)

theorem ordered_head {s : State} (h : s.Ordered) (hd) : State.Ordered { s with head := hd } :=
  ordered_of_eq h rfl rfl rfl rfl rfl rfl

theorem ordered_firing {s : State} (h : s.Ordered) (f) : State.Ordered { s with firing := f } :=
  ordered_of_eq h rfl rfl rfl rfl rfl rfl

theorem ordered_mapTracker {s : State} (h : s.Ordered) (f) : (s.mapTracker f).Ordered :=
  ordered_of_eq h rfl rfl rfl rfl rfl rfl

theorem ordered_raise {s : State} (h : s.Ordered) (f) : (s.raise f).Ordered := ordered_of_eq h rfl rfl rfl rfl rfl rfl

theorem ordered_ctl {s : State} (h : s.Ordered) (c) : State.Ordered { s with ctl := c } :=
  ordered_of_eq h rfl rfl rfl rfl rfl rfl

theorem ordered_oweLook {s : State} (h : s.Ordered) : s.oweLook.Ordered := ordered_of_eq h rfl rfl rfl rfl rfl rfl

theorem ordered_loseTrigger {s : State} (h : s.Ordered) f c : (s.loseTrigger f c).Ordered := by
  unfold State.loseTrigger; split
  · exact ordered_faultCounting (ordered_countIn h _) _
  · exact ordered_countIn h _

theorem ordered_startRowShift {s : State} (h : s.Ordered) x r : (s.startRowShift x r).Ordered :=
  ordered_head (ordered_head (ordered_abortShift h) _) _

theorem ordered_rowTrigger {s : State} (h : s.Ordered) : s.rowTrigger.Ordered := by
  unfold State.rowTrigger; repeat' split
  · exact ordered_loseTrigger h _ _
  · exact ordered_loseTrigger h _ _
  · exact ordered_printOut h
  · rename_i e; exact ordered_startRowShift (ordered_tail h (by rw [e]; exact List.sublist_cons_self _ _)) _ _
  all_goals exact h

theorem ordered_dividerExpires {s : State} (h : s.Ordered) : s.dividerExpires.Ordered := by
  simp only [State.dividerExpires]; split
  · exact ordered_firing (ordered_rowTrigger h) _
  · exact ordered_rowTrigger h

theorem ordered_productStart {s : State} (h : s.Ordered) : s.productStart.Ordered := by
  unfold State.productStart; repeat' split
  all_goals first
    | exact h
    | (with_reducible exact ordered_countIn h _)
    | exact ordered_firing (ordered_tail (ordered_countIn h _) (List.tail_sublist _)) _

theorem ordered_fireStep {s : State} (h : s.Ordered) b : (s.fireStep b).Ordered := by
  unfold State.fireStep; dsimp only
  split <;> split
  · exact ordered_firing (ordered_productStart h) _
  · exact ordered_firing h _
  · exact ordered_productStart h
  · exact h

theorem ordered_effectiveStep {s : State} (h : s.Ordered) : s.effectiveStep.Ordered := by
  unfold State.effectiveStep; dsimp only
  have h1 : ((s.mapTracker Tracker.advance).webStep).Ordered := by
    unfold State.webStep; dsimp only; split
    · exact ordered_raise (ordered_mapTracker (ordered_mapTracker h _) _) _
    · exact ordered_mapTracker (ordered_mapTracker h _) _
  have h2 : (((s.mapTracker Tracker.advance).webStep).widthStep).Ordered := by
    unfold State.widthStep; repeat' split
    · exact h1
    · exact h1
    · exact ordered_mapTracker (ordered_countIn h1 _) _
    · exact ordered_mapTracker h1 _
  apply ordered_fireStep
  unfold State.dueStep; split
  · exact ordered_mapTracker h2 _
  · exact h2

theorem ordered_reverseLimitEvent {s : State} (h : s.Ordered) : s.reverseLimitEvent.Ordered := by
  unfold State.reverseLimitEvent; dsimp only; split
  · exact ordered_faultCounting (ordered_mapTracker h _) _
  · exact ordered_mapTracker h _

theorem ordered_inactiveEdge {s : State} (h : s.Ordered) : s.inactiveEdge.Ordered := by
  unfold State.inactiveEdge State.judgeMark; repeat' split
  · exact h
  · exact ordered_mapTracker (ordered_countIn h _) _
  · exact ordered_mapTracker (ordered_countIn h _) _
  · exact ordered_mapTracker h _
  · exact ordered_mapTracker (ordered_raise (ordered_countIn h _) _) _
  · exact ordered_mapTracker (ordered_mapTracker h _) _
  · exact ordered_mapTracker h _

theorem ordered_applyStaged {s : State} (h : s.Ordered) : s.applyStaged.Ordered := by
  unfold State.applyStaged; split
  · exact ordered_printOut h
  all_goals
    unfold State.applyParams State.applyHeadSetup; dsimp only
    split <;> exact ordered_of_eq h rfl rfl rfl rfl rfl rfl

theorem ordered_headOff {s : State} (h : s.Ordered) : s.headOff.Ordered := by
  have k := ordered_abortShift h
  unfold State.headOff; generalize s.abortShift = u at k
  exact ordered_of_eq k rfl rfl rfl rfl rfl rfl

theorem ordered_enterReady {s : State} (h : s.Ordered) : s.enterReady.Ordered := by
  unfold State.enterReady; dsimp only; split <;> exact ordered_of_eq h rfl rfl rfl rfl rfl rfl

theorem ordered_beginWarmup {s : State} (h : s.Ordered) : s.beginWarmup.Ordered := by
  unfold State.beginWarmup; split
  · exact ordered_enterReady h
  · exact ordered_head h _

theorem ordered_beginPeriod {s : State} (h : s.Ordered) : s.beginPeriod.Ordered := by
  simp only [State.beginPeriod, State.startTickleShift]; repeat' split
  all_goals first | exact h | exact ordered_head h _

theorem ordered_fired {s : State} (h : s.Ordered) x a b : (s.fired x a b).Ordered :=
  ordered_of_eq (ordered_mapJob h x fun j => j.fired a b) rfl rfl rfl rfl rfl rfl

/-! ### Completions, looks, the writer and the port -/

/-- A completion adds no release. -/
theorem ordered_completion {s : State} (h : s.Ordered) {x e} : (s.addTask (.completion x e)).Ordered :=
  ordered_frame h (List.Sublist.refl _) (.of_eq rfl) rfl rfl
    (by simp [State.releases, State.addTask, List.countP_append, WriteTask.slot]) (.inl rfl)

theorem ordered_beginCompletion {s : State} (h : s.Ordered) x : (s.beginCompletion x).Ordered :=
  ordered_completion (ordered_mapJob h _ _)

theorem ordered_free {s : State} (h : s.Ordered) o n : State.Ordered { s with outs := o, free := n } :=
  ordered_of_eq h rfl rfl rfl rfl rfl rfl

theorem ordered_beginBoth {s : State} (h : s.Ordered) : s.beginBoth.Ordered := by
  have h1 : ((s.completing .slot0).completing .slot1).Ordered := ordered_mapJob (ordered_mapJob h _ _) _ _
  unfold State.beginBoth State.addTasks State.completionOf
  split
  · exact ordered_free (ordered_completion (ordered_completion h1)) _ _
  · exact ordered_free (ordered_completion (ordered_completion h1)) _ _

theorem ordered_tryCompletion {s t : State} (h : s.Ordered) {x} (e : s.tryCompletion x = some t) : t.Ordered := by
  unfold State.tryCompletion at e; split at e <;> simp at e; subst e; exact ordered_beginCompletion h _

theorem ordered_tryHead {s t : State} (h : s.Ordered) (e : s.tryHead = some t) : t.Ordered := by
  unfold State.tryHead State.tryEnd at e
  repeat' split at e
  all_goals cases e
  · exact ordered_of_eq (ordered_tail h (List.tail_sublist _)) rfl rfl rfl rfl rfl rfl
  · exact ordered_applyStaged (ordered_tail h (List.tail_sublist _))
  · exact ordered_printOut h
  · exact ordered_beginCompletion (ordered_tail h (List.tail_sublist _)) _

theorem ordered_tryEnd {s t : State} (h : s.Ordered) (e : s.tryEnd = some t) : t.Ordered := by
  unfold State.tryEnd at e
  repeat' split at e
  all_goals cases e
  exact ordered_beginCompletion (ordered_tail h (List.tail_sublist _)) _

theorem ordered_loseHead {s : State} (h : s.Ordered) : s.loseHead.Ordered := by
  have k : s.shiftLost.Ordered := shiftLost_keeps (fun _ _ k e => ordered_tryHead k e) (ordered_abortShift h)
  unfold State.loseHead; generalize s.shiftLost = u at k
  exact ordered_of_eq k rfl rfl rfl rfl rfl rfl

/-- The walker alone changes, and its look is where it was or holds nothing that matters. -/
theorem ordered_walker {s : State} (h : s.Ordered) {w : Walker}
    (g : w.stage = s.walker.stage ∨ w.stage.holdsNone = false) : State.Ordered { s with walker := w } :=
  ordered_frame h (List.Sublist.refl _) (.of_eq rfl) rfl rfl (Nat.le_refl _) g

/-- A request of the writer or the walker. -/
theorem oneAtATime_setWaiting {s : State} (h : s.OneAtATime) {r : Requester} (n : r ≠ .builder) {o}
    (ho : ∀ t, o = some t → t.requester = r) {w} :
    State.OneAtATime { s with port := s.port.setWaiting r o, walker := w } := by
  have br : (s.port.setWaiting r o).builderReq = s.port.builderReq := by
    cases r <;> first | rfl | exact absurd rfl n
  have cu : (s.port.setWaiting r o).current = s.port.current := setWaiting_current ..
  obtain ⟨h1, h2, h3, h4, h5, h6, h7, h8, h9, h10, h11⟩ := h
  refine ⟨h1, h2, h3, h4, ?_, ?_, h7, ?_, h9, ?_, setWaiting_requests h11 ho⟩
  · intro a; apply h5; simpa [State.awaits, br, cu] using a
  · intro a; apply h6; simpa [State.awaits, br, cu] using a
  · dsimp only; rw [br, cu]; exact h8
  · dsimp only; unfold Port.currentOf; rw [br, cu]; exact h10

/-- A look goes on with a transaction. -/
theorem ordered_lookOn {s : State} (h : s.Ordered) (r : s.releases = 0) {g : LookStage} {k : TxKind} {a n}
    (hk : k.requester = .walker) : (s.lookOn g k a n).Ordered := by
  have hr : ∀ t : Transaction, some ⟨k, a, n, 0#32, true⟩ = some t → t.requester = k.requester := by
    intro t e; cases e; rfl
  refine ⟨oldestFirst_frame h.first (List.Sublist.refl _) (.of_eq rfl) (.inl rfl), ?_, ?_⟩
  · exact oneAtATime_setWaiting (r := k.requester) h.once (by rw [hk]; simp) hr
  · exact ⟨by rw [show (s.lookOn g k a n).releases = s.releases from rfl]; omega, fun _ => r⟩

theorem ordered_endLookIdle {s : State} (h : s.Ordered) : s.endLookIdle.Ordered := ordered_walker h (.inr rfl)

theorem ordered_endLookWait {s : State} (h : s.Ordered) : s.endLookWait.Ordered := by
  unfold State.endLookWait; split
  · exact ordered_walker h (.inr rfl)
  · exact ordered_endLookIdle h

theorem releasing_zero {s : State} (h : s.writer.releasing = false) : s.releases = 0 := by
  unfold State.releases; rw [List.countP_eq_zero]; intro t ht k
  unfold Writer.releasing at h; rw [List.any_eq_false] at h
  have := h t ht
  cases t <;> simp_all [WriteTask.slot]

theorem ordered_tryLook {s t : State} (h : s.Ordered) (e : s.tryLook = some t) : t.Ordered := by
  unfold State.tryLook at e; split at e <;> simp at e; subst e
  rename_i r
  unfold State.lookReady at r; simp at r
  have h1 : (s.mapWalker fun w => { w with lookOwed := false, pollTimer := .stopped }).Ordered :=
    ordered_walker h (.inl rfl)
  exact ordered_lookOn h1 (releasing_zero r.2) rfl

/-- A release is handed over, and the look holds none from there on (R133, R134). -/
theorem ordered_moveAnchor {s : State} (h : s.Ordered) (r : s.releases = 0) {a} {w : Walker}
    (g : w.stage.holdsNone = false) : State.Ordered { s.moveAnchor a with walker := w } := by
  refine ⟨oldestFirst_frame h.first (List.Sublist.refl _) (.of_eq rfl) (.inl rfl),
    oneAtATime_frame h.once (List.Sublist.refl _) rfl rfl, ?_, ?_⟩
  · rw [show State.releases _ = s.releases + 1 by
      simp [State.releases, State.moveAnchor, State.addTask, State.mapWalker, List.countP_append, WriteTask.slot]]
    omega
  · intro e; rw [show State.walker _ = w from rfl, g] at e; cases e

theorem ordered_skipRecord {s : State} (h : s.Ordered) (r : s.releases = 0) a : (s.skipRecord a).Ordered := by
  unfold State.skipRecord; split
  · exact ordered_moveAnchor h r rfl
  · exact ordered_moveAnchor h r rfl

/-- After a chain fault there is nothing left to order. -/
theorem ordered_chainFault {s : State} (h : s.Ordered) c : (s.chainFault c).Ordered := by
  unfold State.chainFault; split
  · exact h
  · apply ordered_raise; apply ordered_headOff; apply ordered_firing; apply ordered_mapTracker
    refine ⟨⟨List.Pairwise.nil, fun x e => by cases e⟩, ?_, ⟨Nat.zero_le _, fun _ => rfl⟩⟩
    refine oneAtATime_unread ⟨rfl, ?_⟩ (Nat.zero_le _) (Nat.zero_le _) (fun x e => by cases e) (fun x e => by cases e)
      (fun _ => rfl) ?_ ?_
    · rintro t (e | e) -
      · simp only [Port.atFault, Option.map_eq_some_iff] at e; obtain ⟨u, -, rfl⟩ := e; rfl
      · cases e
    · exact fun e => absurd rfl e
    · intro r t e; cases r <;> cases e

theorem ordered_linkRead {s : State} (h : s.Ordered) r : (s.linkRead r).Ordered := by
  unfold State.linkRead; split
  · rename_i g
    have z := h.release.looking (by rw [g]; rfl)
    repeat' split
    · exact ordered_chainFault h _
    · exact ordered_endLookWait h
    · exact ordered_chainFault h _
    · exact ordered_lookOn h z rfl
  · exact h

theorem ordered_stateRead {s : State} (h : s.Ordered) r : (s.stateRead r).Ordered := by
  unfold State.stateRead; split
  · rename_i g
    have z := h.release.looking (by rw [g]; rfl)
    repeat' split
    all_goals first
      | (with_reducible exact ordered_chainFault h _)
      | (with_reducible exact ordered_endLookWait h)
      | (with_reducible exact ordered_skipRecord h z _)
      | exact ordered_lookOn h z rfl
  · exact h

theorem ordered_headerRead {s : State} (h : s.Ordered) r : (s.headerRead r).Ordered := by
  unfold State.headerRead; split
  · rename_i g
    have z := h.release.looking (by rw [g]; rfl)
    split
    · exact ordered_chainFault h _
    · exact ordered_lookOn h z rfl
  · exact h

/-! ### The take -/

theorem otherSlot_otherSlot (x) : otherSlot (otherSlot x) = x := by cases x <;> rfl

/-- The order of the jobs right after a take in a free slot (R137). -/
theorem placeJob_oldest {s : State} {x} (j : Job) (o : s.job (otherSlot x) ≠ none) :
    (s.placeJob x j).slots.oldest = some (otherSlot x) := by
  have h : (s.slots.get (otherSlot x)).isSome = true := by
    cases e : s.job (otherSlot x) with
    | none => exact absurd e o
    | some k => rw [show s.slots.get (otherSlot x) = some k from e]; rfl
  unfold State.placeJob Slots.oldest; rw [h]
  cases x
  · simp only [Slots.put, otherSlot, Slots.get] at *
    cases e : s.slots.slot1 <;> simp_all
  · simp only [Slots.put, otherSlot, Slots.get] at *
    cases e : s.slots.slot0 <;> simp_all

/-- With a slot free, the items of the queue are of the other. -/
theorem items_other {s : State} (l : s.Linked) {x} (hx : s.job x = none) : ∀ it ∈ s.queue, it.slot = otherSlot x :=
  fun it hi => by
    obtain ⟨j, hj, -⟩ := l.items it hi
    exact eq_other fun e => by rw [e, hx] at hj; cases hj

theorem ordered_take {s : State} (h : s.Ordered) (l : s.Linked) (g : s.walker.stage.holdsNone = true) r hd :
    (s.take r hd).Ordered := by
  have z := h.release.looking g
  have bj := l.looking (by intro e; rw [e] at g; cases g) (by intro e; rw [e] at g; cases g)
  have bs : s.builder.state ≠ .fetching := by rw [(l.free bj).1]; simp
  have u := OneAtATime_unread h.once bs
  unfold State.take
  cases fs : s.slots.freeSlot with
  | none => exact ordered_moveAnchor h z rfl
  | some x =>
    have hx : s.job x = none := freeSlot_none fs
    have it := items_other l hx
    -- a job that begins completing
    have faulted : ∀ c, (s.takeFaulted x r hd c).endLookIdle.Ordered := by
      intro c
      have q : (s.takeFaulted x r hd c).queue = s.queue := by simp [State.takeFaulted]
      have b : (s.takeFaulted x r hd c).builder = s.builder := by simp [State.takeFaulted]
      have p : (s.takeFaulted x r hd c).port = s.port := by simp [State.takeFaulted]
      refine ⟨oldestFirst_one (x := otherSlot x) ?_ ?_, oneAtATime_frame h.once (by
        rw [show (s.takeFaulted x r hd c).endLookIdle.queue = _ from q]) b p, ?_, fun e => by cases e⟩
      · rw [show (s.takeFaulted x r hd c).endLookIdle.queue = _ from q]; exact it
      · intro y e; rw [show (s.takeFaulted x r hd c).endLookIdle.builder = _ from b, bj] at e; cases e
      · have : (s.takeFaulted x r hd c).endLookIdle.releases = s.releases + 1 := by
          simp only [State.releases, State.takeFaulted, State.addTasks]
          split <;>
            simp [State.endLookIdle, State.mapWalker, State.oweLook, State.addTask, State.completionOf, State.placeJob,
              List.countP_append, WriteTask.slot]
        omega
    dsimp only
    split
    · exact faulted _
    · split
      · exact faulted _
      · -- a job that is built
        refine ⟨oldestFirst_one (x := otherSlot x) it ?_, ?_, ?_, fun e => by cases e⟩
        · intro y e f
          obtain rfl : x = y := Option.some.inj e
          refine placeJob_oldest (s := s.moveAnchor r) _ ?_
          have key := placeJob_job (s.moveAnchor r) x (hd.toJob r .building none) (otherSlot x)
          rw [if_neg (otherSlot_ne x)] at key
          rw [← key]; exact f
        · refine oneAtATime_unread ⟨rfl, u.2⟩ h.once.swaps h.once.setups (fun x e => by cases e) (fun x e => by cases e)
            ?_ h.once.one h.once.requests
          intro e; exfalso
          simp [State.endLookIdle, State.mapWalker, State.takeValid, State.beginBuild, State.mapBuilder] at e
          split at e <;> cases e
        · have : State.releases ((s.takeValid x r hd).endLookIdle) = s.releases + 1 := by
            simp [State.releases, State.takeValid, State.endLookIdle, State.mapWalker, State.beginBuild,
              State.mapBuilder, State.placeJob, State.moveAnchor, State.addTask, List.countP_append,
              WriteTask.slot]
          omega

theorem ordered_exchangeDone {s : State} (h : s.Ordered) (l : s.Linked) r : (s.exchangeDone r).Ordered := by
  unfold State.exchangeDone; split
  · rename_i g
    have z := h.release.looking (by rw [g]; rfl)
    repeat' split
    all_goals first
      | (with_reducible exact ordered_chainFault h _)
      | (with_reducible exact ordered_endLookWait h)
      | (with_reducible exact ordered_skipRecord h z _)
      | exact ordered_take h l (by rw [g]; rfl) _ _
  · exact h

/-! ### The writer -/

theorem ordered_onBus {s : State} (h : s.Ordered) b : (s.onBus b).Ordered := ordered_of_eq h rfl rfl rfl rfl rfl rfl

theorem ordered_resultWritten {s : State} (h : s.Ordered) t r : (s.resultWritten t r).Ordered := by
  unfold State.resultWritten; split
  · exact ordered_chainFault (ordered_onBus h _) _
  · exact ordered_frame (ordered_onBus h (.wrote t.address t.value)) (List.Sublist.refl _) (.of_eq rfl) rfl rfl
      (Nat.le_refl _) (.inl rfl)

theorem ordered_completed {s : State} (h : s.Ordered) (l : s.Linked) t w : (s.completed t w).Ordered := by
  unfold State.completed; split
  · rename_i x ep rest e
    split
    · exact h
    · rename_i j hj
      have hc : ∃ j, s.job x = some j ∧ j.phase = .completing := (l.tasks.2 x).1 (by simp [e, WriteTask.slot])
      have jf : ∀ y, (s.freeJob x).job y = if y = x then none else s.job y := fun y => get_put _ _ _ _
      have bx : s.builder.job ≠ some x := by
        intro hb; obtain ⟨j', e1, e2⟩ := hc
        have := (l.building x hb).2 j' e1; rw [this] at e2; cases e2
      have it : ∀ i ∈ s.queue, i.slot = otherSlot x := by
        intro i hi; apply eq_other; rintro rfl
        obtain ⟨j1, a, b, -⟩ := l.items i hi
        obtain ⟨j2, c, d⟩ := hc
        rw [a] at c; cases c; exact b d
      have h1 : ((s.freeJob x).removeTask).Ordered := by
        refine ⟨oldestFirst_one (x := otherSlot x) it ?_, oneAtATime_frame h.once (List.Sublist.refl _) rfl rfl,
          oneRelease_frame h.release ?_ (.inl rfl)⟩
        · intro y e f
          have hy : y = otherSlot x := eq_other fun k => bx (k ▸ e)
          subst hy
          rw [otherSlot_otherSlot] at f
          exact absurd (by have := jf x; rw [if_pos rfl] at this; exact this) f
        · exact (List.tail_sublist _).countP_le
      have h2 := ordered_of_eq (t := ((s.onBus (.wrote t.address (completedWord w j.fault))).freeJob x).removeTask) h1 rfl
        rfl rfl rfl rfl rfl
      apply ordered_oweLook
      unfold State.completionAttention; repeat' split
      · exact ordered_raise h2 _
      · exact ordered_raise h2 _
      · exact h2
  · exact h

theorem ordered_stateUpdated {s : State} (h : s.Ordered) (l : s.Linked) t r : (s.stateUpdated t r).Ordered := by
  unfold State.stateUpdated; repeat' split
  · exact ordered_chainFault (ordered_onBus h _) _
  · exact ordered_completed h l _ _
  · exact ordered_chainFault h _

theorem ordered_finishRelease {s : State} (h : s.Ordered) : s.finishRelease.Ordered := by
  unfold State.finishRelease; split
  · rename_i r rest e
    have c : s.removeTask.releases + 1 = s.releases := by
      simp [State.releases, State.removeTask, e, WriteTask.slot]
    have h1 : s.removeTask.Ordered :=
      ordered_frame h (List.Sublist.refl _) (.of_eq rfl) rfl rfl (by omega) (.inl rfl)
    unfold State.releaseEnded; split
    · refine ordered_lookOn h1 ?_ rfl
      have := h.release.releases; omega
    · exact h1
  · exact h

theorem ordered_releaseDone {s : State} (h : s.Ordered) t r : (s.releaseDone t r).Ordered := by
  unfold State.releaseDone; split
  · exact ordered_chainFault (ordered_onBus h _) _
  · exact ordered_finishRelease (ordered_onBus h _)

/-! ### Leaving RUNNING, and the resets -/

theorem endLook_stage (w : Walker) : w.endLook.stage = w.stage ∨ w.endLook.stage.holdsNone = false := by
  unfold Walker.endLook; split
  · exact .inl rfl
  all_goals first | exact .inl rfl | exact .inr rfl

theorem ordered_ceaseLooking {s : State} (h : s.Ordered) : s.ceaseLooking.Ordered := by
  unfold State.ceaseLooking; split
  · exact ⟨oldestFirst_frame h.first (List.Sublist.refl _) (.of_eq rfl) (.inl rfl), oneAtATime_disownWalker h.once,
      oneRelease_frame h.release (Nat.le_refl _) (endLook_stage _)⟩
  · exact ordered_walker h (endLook_stage _)

theorem ordered_enterAbandoning {s : State} (h : s.Ordered) : s.enterAbandoning.Ordered := by
  have h1 : ((s.setEngine .abandoning).abortShift).Ordered := ordered_abortShift (ordered_ctl h _)
  have h2 : State.Ordered { ((s.setEngine .abandoning).abortShift).tickleOff with
      head := { (((s.setEngine .abandoning).abortShift).tickleOff).head with idleTimer := .stopped } } :=
    ordered_of_eq h1 rfl rfl rfl rfl rfl rfl
  exact ordered_ceaseLooking (ordered_takeFault (ordered_takeFault (ordered_printOut h2) _ _ _) _ _ _)

theorem ordered_enterStopped {s : State} (h : s.Ordered) : s.enterStopped.Ordered := by
  unfold State.enterStopped
  apply ordered_raise; apply ordered_headOff; apply ordered_firing; apply ordered_mapTracker
  exact ordered_walker (s := s.setEngine .stopped) (ordered_ctl h _) (.inr rfl)

theorem ordered_afterReset (a e p n l) : (State.afterReset a e p n l).Ordered := by
  refine ⟨⟨List.Pairwise.nil, fun x e => by cases e⟩, ?_, ⟨Nat.zero_le _, fun e => by cases e⟩⟩
  refine oneAtATime_unread ⟨rfl, ?_⟩ (Nat.zero_le _) (Nat.zero_le _) (fun x e => by cases e) (fun x e => by cases e)
    (fun _ => rfl) (fun e => absurd rfl e) ?_
  · rintro t (e | e) <;> cases e
  · intro r t e; cases r <;> cases e

theorem ordered_resetTo {s : State} (a e p c) : (s.resetTo a e p c).Ordered :=
  ordered_of_eq (ordered_afterReset a e p s.free s.pending) rfl rfl rfl rfl rfl rfl

/-! ### Own steps -/

theorem ordered_tryDivider {s t : State} (h : s.Ordered) (e : s.tryDivider = some t) : t.Ordered := by
  unfold State.tryDivider at e; split at e <;> simp at e; subst e; exact ordered_dividerExpires h

theorem ordered_tryHeld {s t : State} (h : s.Ordered) (l : s.Linked) (e : s.tryHeld = some t) : t.Ordered := by
  unfold State.tryHeld at e; split at e
  · split at e <;> simp at e; subst e
    rename_i it st hd _
    refine ordered_enterHeld h l (by rw [st]; simp) (l.held _ hd).2.1 ?_ ?_
    · intro k; cases it <;> simp [Item.isSwap] at k; exact h.once.heldSwap _ hd
    · intro k; cases it <;> simp [Item.isSetup] at k
      have := h.once.heldSetup _ hd
      exact ⟨h.once.judging (by rw [this]; rfl), this⟩
  · cases e

theorem ordered_tryStage {s t : State} (h : s.Ordered) (l : s.Linked) (e : s.tryStage = some t) : t.Ordered := by
  unfold State.tryStage at e; split at e
  · rename_i x st hx
    split at e <;> simp at e; subst e
    have b : Acting s := ⟨by rw [st]; simp, held_none l (by rw [st]; simp)⟩
    have eg : Engaged s := ⟨by rw [hx]; simp, b.2⟩
    exact ordered_actOn (ordered_walkOn h b h.once.judging) (linked_walkOn l eg _) ⟨by simp [State.walkOn], b.2⟩ hx rfl
  · cases e

theorem ordered_tryWalk {s t : State} (h : s.Ordered) (l : s.Linked) (e : s.tryWalk = some t) : t.Ordered := by
  unfold State.tryWalk at e; split at e
  · rename_i x st hx
    split at e <;> simp at e; subst e
    exact ordered_actOn h l ⟨by rw [st]; simp, held_none l (by rw [st]; simp)⟩ hx rfl
  · cases e

theorem ordered_tryFree {s t : State} (h : s.Ordered) (e : s.tryFree = some t) : t.Ordered := by
  unfold State.tryFree at e; split at e <;> simp at e; subst e; exact ordered_firing h _

theorem ordered_tryCompletions {s t : State} (h : s.Ordered) (e : s.tryCompletions = some t) : t.Ordered := by
  unfold State.tryCompletions at e; split at e
  · cases e; exact ordered_beginBoth h
  · rw [Option.or_eq_some_iff] at e; rcases e with e | ⟨-, e⟩ <;> exact ordered_tryCompletion h e

theorem ordered_tryDrainEnd {s t : State} (h : s.Ordered) (e : s.tryDrainEnd = some t) : t.Ordered := by
  unfold State.tryDrainEnd at e; split at e <;> simp at e; subst e; exact ordered_enterStopped h

theorem nextWrite_requester {s : State} {t} (e : s.nextWrite = some t) : t.requester = .writer := by
  unfold State.nextWrite at e; repeat' split at e
  all_goals cases e
  all_goals rfl

theorem ordered_tryWriter {s t : State} (h : s.Ordered) (e : s.tryWriter = some t) : t.Ordered := by
  unfold State.tryWriter at e; split at e
  · cases e
  · rw [Option.map_eq_some_iff] at e; obtain ⟨u, hu, rfl⟩ := e
    have r := nextWrite_requester hu
    refine ⟨oldestFirst_frame h.first (List.Sublist.refl _) (.of_eq rfl) (.inl rfl), ?_,
      oneRelease_frame h.release (Nat.le_refl _) (.inl rfl)⟩
    exact oneAtATime_setWaiting (r := u.requester) h.once (by rw [r]; simp) (fun t e => by cases e; rfl)

theorem ordered_tryWant {s t : State} (h : s.Ordered) (l : s.Linked) (e : s.tryWant = some t) : t.Ordered := by
  unfold State.tryWant at e; split at e
  · cases e
  · rename_i o
    rw [Option.map_eq_some_iff] at e; obtain ⟨u, hu, rfl⟩ := e
    obtain ⟨st, r⟩ := h.once.wanting u hu
    refine ⟨oldestFirst_frame h.first (List.Sublist.refl _) (.of_eq rfl) (.inl rfl), ?_,
      oneRelease_frame h.release (Nat.le_refl _) (.inl rfl)⟩
    have hd : s.builder.held = none := held_none l (by rw [st]; simp)
    exact oneAtATime_request (s := s.mapBuilder fun b => { b with want := none }) r st rfl (by simpa using o) hd
      h.once.swaps h.once.setups (fun e w => h.once.loading ⟨u, e, w, .inr (.inr hu)⟩)
      (fun e w => h.once.reading ⟨u, e, w, .inr (.inr hu)⟩) h.once.judging h.once.requests

/-- The port is granted: a transaction that waited is in progress (R145). -/
theorem ordered_tryGrant {s t : State} (h : s.Ordered) (e : s.tryGrant = some t) : t.Ordered := by
  unfold State.tryGrant at e; split at e
  · cases e
  · rename_i o
    rw [Option.map_eq_some_iff] at e; obtain ⟨r, hr, rfl⟩ := e
    have cn : s.port.current = none := by simp at o; exact o.1
    refine ⟨oldestFirst_frame h.first (List.Sublist.refl _) (.of_eq rfl) (.inl rfl), ?_,
      oneRelease_frame h.release (Nat.le_refl _) (.inl rfl)⟩
    have wq : ∀ q, (s.port.grant r).waiting q = if q = r then none else s.port.waiting q := by
      intro q; exact setWaiting_waiting s.port r q none
    have cu : (s.port.grant r).current = s.port.waiting r := rfl
    -- a read of the builder that is there was there
    have old : ∀ t, t.requester = .builder →
        ((s.port.grant r).current = some t ∨ (s.port.grant r).builderReq = some t) → s.port.builderReq = some t := by
      intro t ht f
      rcases f with f | f
      · rw [cu] at f
        have := h.once.requests r t f
        rw [ht] at this; subst this; exact f
      · have := wq .builder
        rw [show (s.port.grant r).builderReq = _ from this] at f; split at f
        · cases f
        · exact f
    have aw : ∀ k : TxKind, k.requester = .builder →
        State.awaits { s with port := s.port.grant r } k → s.awaits k := by
      rintro k hk ⟨t, e, w, f⟩
      have ht : t.requester = .builder := by unfold Transaction.requester; rw [e]; exact hk
      refine ⟨t, e, w, ?_⟩
      rcases f with f | f | f
      · exact .inr (.inl (old t ht (.inl f)))
      · exact .inr (.inl (old t ht (.inr f)))
      · exact .inr (.inr f)
    obtain ⟨h1, h2, h3, h4, h5, h6, h7, h8, h9, h10, h11⟩ := h.once
    refine ⟨h1, h2, h3, h4, fun a => h5 (aw _ rfl a), fun a => h6 (aw _ rfl a), h7,
      fun t f w ht => h8 t (.inr (old t ht f)) w ht, h9, ?_, ?_⟩
    · intro f
      have := wq .builder
      rw [show State.port _ = s.port.grant r from rfl,
        show (s.port.grant r).builderReq = _ from this] at f
      split at f
      · exact absurd rfl f
      · rename_i n
        dsimp only; unfold Port.currentOf; rw [cu]
        cases k : s.port.waiting r with
        | none => rfl
        | some t => rw [← h11 r t k] at n; simpa using fun c => n c.symm
    · intro q t f
      dsimp only at f; rw [wq] at f; split at f
      · cases f
      · exact h11 q t f

theorem ordered_ownStep {s t : State} (h : s.Ordered) (l : s.Linked) (e : s.ownStep = some t) : t.Ordered := by
  rcases ownStep_cases e with e | e | e | e | e | e | e | e | e | e | e | e
  · exact ordered_tryHead h e
  · exact ordered_tryDivider h e
  · exact ordered_tryHeld h l e
  · exact ordered_tryStage h l e
  · exact ordered_tryWalk h l e
  · exact ordered_tryFree h e
  · exact ordered_tryCompletions h e
  · exact ordered_tryDrainEnd h e
  · exact ordered_tryLook h e
  · exact ordered_tryWriter h e
  · exact ordered_tryWant h l e
  · exact ordered_tryGrant h e

theorem ordered_rest {s : State} (l : s.Linked) (h : s.Ordered) : s.rest.Ordered :=
  (restFor_keeps (P := fun s => s.Linked ∧ s.Ordered)
    (fun _ _ k e => ⟨linked_ownStep k.1 e, ordered_ownStep k.2 k.1 e⟩) _ _ ⟨l, h⟩).2

theorem ordered_orStay {s : State} {o : Option State} (h : s.Ordered)
    (ho : ∀ t, o = some t → t.Linked ∧ t.Ordered) : (s.orStay o).Ordered := by
  unfold State.orStay; split
  · exact h
  · exact ordered_rest (ho _ rfl).1 (ho _ rfl).2

/-! ### Commands and transactions -/

theorem ordered_event {s t : State} {f} (l : s.Linked) (h : s.Ordered) (e : event s f = .next t)
    (hf : ∀ u, u.Linked → u.Ordered → (f u).Ordered) : t.Ordered := by
  have q : s.quiet.Ordered := ordered_of_eq h rfl rfl rfl rfl rfl rfl
  rw [event_eq e]; split
  · exact q
  · exact hf _ (linked_quiet l) q

theorem ordered_pinEvent {s t : State} {p f} (l : s.Linked) (h : s.Ordered) (e : pinEvent s p f = .next t)
    (hf : ∀ u, u.Linked → u.Ordered → (f u).Ordered) : t.Ordered :=
  ordered_event (linked_pins l p) (ordered_of_eq h rfl rfl rfl rfl rfl rfl) e hf

/-- The transaction in progress is over. -/
theorem ordered_ended {s : State} (h : s.Ordered) : State.Ordered { s with port := { s.port with current := none } } := by
  refine ⟨oldestFirst_frame h.first (List.Sublist.refl _) (.of_eq rfl) (.inl rfl), ?_,
    oneRelease_frame h.release (Nat.le_refl _) (.inl rfl)⟩
  have aw : ∀ k, State.awaits { s with port := { s.port with current := none } } k → s.awaits k := by
    rintro k ⟨t, e, w, f | f | f⟩
    · cases f
    · exact ⟨t, e, w, .inr (.inl f)⟩
    · exact ⟨t, e, w, .inr (.inr f)⟩
  obtain ⟨h1, h2, h3, h4, h5, h6, h7, h8, h9, h10, h11⟩ := h.once
  refine ⟨h1, h2, h3, h4, fun a => h5 (aw _ a), fun a => h6 (aw _ a), h7, ?_, h9, fun _ => rfl, ?_⟩
  · rintro t (e | e) w r
    · cases e
    · exact h8 t (.inr e) w r
  · intro r t e; exact h11 r t (by cases r <;> exact e)

/-- A transaction ends: its requester acts on it, or its outcome is discarded. -/
theorem ordered_endTransaction {s : State} (l : s.Linked) (h : s.Ordered) k {bus act}
    (ha : ∀ tx u, s.port.current = some tx → tx.kind = k → tx.wanted = true →
      u = ({ s with port := { s.port with current := none } } : State) →
      u.Linked → u.Ordered → (act tx u).Linked ∧ (act tx u).Ordered) : (s.endTransaction k bus act).Ordered := by
  simp only [State.endTransaction]
  split
  · exact h
  · rename_i t c
    have l1 := linked_port l { s.port with current := none }
    have h1 := ordered_ended h
    repeat' split
    · rename_i e w
      obtain ⟨a, b⟩ := ha t _ c e w rfl l1 h1
      exact ordered_rest a b
    · refine ordered_rest ?_ ?_
      · have l2 := linked_onBus l1 (bus t)
        unfold State.discard; split
        · obtain ⟨h1,h2,h3,h4,h5,h6,h7,h8,h9,h10,h11,h12,h13,h14⟩ := l2
          exact ⟨h1,h2,h3,h4,h5,h6,h7,h8,h9,h10,h11,h12,h13,h14⟩
        · exact linked_endLookIdle l2
        · exact l2
      · have h2 := ordered_onBus h1 (bus t)
        unfold State.discard; split
        · obtain ⟨⟨a, b⟩, ⟨h1, h2, h3, h4, h5, h6, h7, h8, h9, h10, h11⟩, ⟨c, d⟩⟩ := h2
          exact ⟨⟨a, b⟩, ⟨h1, h2, h3, h4, h5, h6, h7, h8, h9, h10, h11⟩, ⟨c, d⟩⟩
        · exact ordered_endLookIdle h2
        · exact h2
    · exact h

/-- A read of the builder ends: the builder acts on it, with no SWAP in the queue after a table read and no SETUP after
the read of a setup block (R37, R39). -/
theorem ordered_endBuilderRead {s : State} (l : s.Linked) (h : s.Ordered) {k : TxKind} (hk : k.requester = .builder) {act}
    (la : ∀ u, u.Linked → Engaged u → (act u).Linked)
    (ha : ∀ u, u.Linked → u.Ordered → Acting u → (k = .tableRead → u.swaps = 0) →
      (k = .setupBlockRead → u.setups = 0) → (act u).Ordered) : (s.endBuilderRead k act).Ordered := by
  refine ordered_endTransaction l h k ?_
  intro tx u c e w hu ul uo
  split
  · rename_i r; simp [Builder.reading] at r
    have hj : u.builder.job ≠ none := by intro e; have := (ul.free e).1; rw [this] at r; simp at r
    have hn := held_none ul (by rw [r.1]; simp)
    have un : u.Unread := by
      refine ⟨r.2, ?_⟩
      rintro t (f | f) ht
      · rw [hu] at f; cases f
      · exfalso
        have hr : tx.requester = .builder := by unfold Transaction.requester; rw [e]; exact hk
        have := h.once.one (by rw [hu] at f; dsimp only at f; rw [f]; simp)
        unfold Port.currentOf at this; rw [c] at this; simp at this; exact this hr
    have lu : (u.mapBuilder fun b => { b with state := .walking }).Linked := linked_mapBuilder ul rfl hj (by simp) hn
    have ou : (u.mapBuilder fun b => { b with state := .walking }).Ordered :=
      ⟨oldestFirst_frame uo.first (List.Sublist.refl _) (.of_eq rfl) (.inl rfl),
        oneAtATime_unread un uo.once.swaps uo.once.setups uo.once.heldSwap uo.once.heldSetup uo.once.judging uo.once.one
          uo.once.requests,
        oneRelease_frame uo.release (Nat.le_refl _) (.inl rfl)⟩
    refine ⟨la _ lu ⟨hj, hn⟩, ha _ lu ou ⟨by simp, hn⟩ ?_ ?_⟩
    · rintro rfl
      have := h.once.loading ⟨tx, e, w, .inl c⟩
      subst hu; exact this
    · rintro rfl
      have := h.once.reading ⟨tx, e, w, .inl c⟩
      subst hu; exact this
  · exact ⟨ul, uo⟩

theorem ordered_powerHead {s : State} (h : s.Ordered) : s.powerHead.Ordered := by
  unfold State.powerHead; split
  · exact ordered_beginWarmup h
  · exact ordered_raise (ordered_head h _) _

theorem ordered_doStart {s : State} (l : s.Linked) (h : s.Ordered) : s.doStart.Ordered := by
  have l1 : (s.accept.setEngine .running).Linked := linked_ctl (linked_accept l) (by simp [EngineState.resting])
  have h1 : (s.accept.setEngine .running).Ordered := ordered_ctl (ordered_ctl h _) _
  unfold State.doStart; split
  · exact ordered_rest (linked_oweLook (linked_powerHead l1 rfl)) (ordered_oweLook (ordered_powerHead h1))
  · exact ordered_rest (linked_oweLook l1) (ordered_oweLook h1)
  all_goals exact ordered_ctl h _

theorem ordered_doStop {s : State} (l : s.Linked) (h : s.Ordered) : s.doStop.Ordered := by
  have l1 : (s.accept.setEngine .draining).Linked := linked_ctl (linked_accept l) (by simp [EngineState.resting])
  have h1 : (s.accept.setEngine .draining).Ordered := ordered_ctl (ordered_ctl h _) _
  unfold State.doStop; split
  · exact ordered_rest (linked_ceaseLooking l1) (ordered_ceaseLooking h1)
  all_goals exact ordered_ctl h _

theorem ordered_doHalt {s : State} (l : s.Linked) (h : s.Ordered) : s.doHalt.Ordered := by
  have h1 : s.accept.Ordered := ordered_ctl h _
  unfold State.doHalt; repeat' split
  all_goals first
    | (with_reducible exact ordered_rest (linked_enterAbandoning (linked_accept l)) (ordered_enterAbandoning h1))
    | exact ordered_ctl h _

theorem ordered_doSkip {s : State} (l : s.Linked) (h : s.Ordered) : s.doSkip.Ordered := by
  have h1 : s.accept.Ordered := ordered_ctl h _
  unfold State.doSkip State.skipCounting; repeat' split
  all_goals first
    | (with_reducible exact ordered_rest (linked_takeFault (linked_accept l) _ _ _) (ordered_takeFault h1 _ _ _))
    | exact ordered_ctl h _

theorem ordered_doLook {s : State} (l : s.Linked) (h : s.Ordered) : s.doLook.Ordered := by
  have h1 : s.accept.Ordered := ordered_ctl h _
  unfold State.doLook; repeat' split
  all_goals first
    | (with_reducible exact ordered_rest (linked_oweLook (linked_accept l)) (ordered_oweLook h1))
    | exact ordered_ctl h _

theorem ordered_writeChain {s : State} (h : s.Ordered) v : (s.writeChain v).Ordered := by
  unfold State.writeChain; split
  · exact ordered_walker (ordered_ctl h _) (.inl rfl)
  · exact ordered_ctl h _

theorem ordered_writeRegister {s : State} (l : s.Linked) (h : s.Ordered) o b v : (s.writeRegister o b v).Ordered := by
  unfold State.writeRegister State.writeControl
  repeat' split
  all_goals first
    | (with_reducible exact h)
    | (with_reducible exact ordered_doStart l h)
    | (with_reducible exact ordered_doStop l h)
    | (with_reducible exact ordered_doHalt l h)
    | (with_reducible exact ordered_doSkip l h)
    | (with_reducible exact ordered_doLook l h)
    | (with_reducible exact ordered_writeChain h _)
    | exact ordered_resetTo _ _ _ _
    | exact ordered_ctl h _

/-! ### What the bounds say together -/

/-- Slots without repetition are two at most. -/
theorem slots_le_two {l : List SlotId} (h : l.Nodup) : l.length ≤ 2 := by
  match l, h with
  | [], _ => simp
  | [_], _ => simp
  | [_, _], _ => simp
  | a :: b :: c :: _, h => exfalso; cases a <;> cases b <;> cases c <;> simp at h

/-- A write list is as long as its completions and its releases together. -/
theorem list_length (l : List WriteTask) :
    l.length = (l.filterMap WriteTask.slot).length + l.countP fun t => t.slot.isNone := by
  induction l with
  | nil => rfl
  | cons t l ih =>
    cases t with
    | completion x e => simp [WriteTask.slot, ih]; omega
    | release r => simp [WriteTask.slot, List.filterMap_cons, ih]; omega

end Sys2Proof.Machine
end

