-- ==== Sys2Proof/Laws/Rest.lean ====
section
/-! SUPPORT. What the block's own steps leave alone (`State.Kept`, `State.Unstopped`). -/

namespace Sys2Proof.Machine

theorem Job.Carried.refl (j : Job) : j.Carried j := ⟨rfl, rfl, rfl, rfl, rfl, fun _ h => h, rfl⟩

theorem Job.Carried.trans {a b c : Job} (h : a.Carried b) (k : b.Carried c) : a.Carried c :=
  ⟨k.1.trans h.1, k.2.trans h.2, k.3.trans h.3, k.4.trans h.4, k.5.trans h.5, fun f e => k.6 f (h.6 f e),
      k.7.trans h.7⟩

def JobsKept (s t : State) : Prop := ∀ x, (s.job x = none → t.job x = none) ∧ ∀ j, s.job x = some j → ∃ j',
    t.job x = some j' ∧ j.Carried j'

theorem JobsKept.of_eq {s t : State} (h : t.slots = s.slots) : JobsKept s t := by
  intro x; rw [job_congr h]; exact ⟨id, fun j e => ⟨j, e, .refl j⟩⟩

theorem JobsKept.trans {s t u : State} (h : JobsKept s t) (k : JobsKept t u) : JobsKept s u := by
  intro x; refine ⟨fun e => (k x).1 ((h x).1 e), fun j e => ?_⟩
  obtain ⟨j', e', c⟩ := (h x).2 j e
  obtain ⟨j'', e'', c'⟩ := (k x).2 j' e'
  exact ⟨j'', e'', c.trans c'⟩

theorem jobsKept_mapJob (s : State) (x f) (hf : ∀ j, Job.Carried j (f j)) : JobsKept s (s.mapJob x f) := by
  intro y; rw [job_mapJob]; split
  · subst y; refine ⟨fun e => by simp [e], fun j e => ⟨f j, by simp [e], hf j⟩⟩
  · exact ⟨id, fun j e => ⟨j, e, .refl j⟩⟩

theorem jobsKept_countIn (s : State) (f : Counts → Counts)
    (hf : ∀ c : Counts, { f c with underruns := 0#16, overspeeds := 0#16 } =
    { c with underruns := 0#16, overspeeds := 0#16 }) : JobsKept s (s.countIn f) := by
  unfold State.countIn State.mapCounts; split
  · exact .of_eq rfl
  · exact jobsKept_mapJob _ _ _ fun j => ⟨rfl, rfl, rfl, rfl, rfl, fun _ h => h, hf _⟩

theorem jobsKept_takeFault (s : State) (x c e) : JobsKept s (s.takeFault x c e) := by
  cases h : s.faultable x
  · rw [takeFault_no h]; exact .of_eq rfl
  · have sp := takeFault_spec h c e
    intro y; by_cases hy : y = x
    · subst hy; obtain ⟨j, e1, f, p, e2⟩ := sp.job
      refine ⟨fun e => (by rw [e1] at e; cases e), fun j' e' => ?_⟩
      rw [e1] at e'; cases e'
      exact ⟨_, e2, rfl, rfl, rfl, rfl, rfl, (fun _ h => by rw [f] at h; cases h), rfl⟩
    · rw [sp.other y hy]; exact ⟨id, fun j e => ⟨j, e, .refl j⟩⟩

theorem State.Kept.refl (s : State) : s.Kept s := by
  constructor
  case attn => exact BitVec.and_self
  case jobs => exact JobsKept.of_eq rfl
  all_goals rfl

theorem and_trans {a b c : BitVec 8} (h : b &&& a = a) (k : c &&& b = b) : c &&& a = a := by
  rw [← h, ← BitVec.and_assoc, k]

theorem State.Kept.trans {s t u : State} (h : s.Kept t) (k : t.Kept u) : s.Kept u := by
  constructor
  case attn => exact and_trans h.attn k.attn
  case jobs => exact JobsKept.trans h.jobs k.jobs
  all_goals first
    | exact k.pins.trans h.pins
    | exact k.pending.trans h.pending
    | exact k.refused.trans h.refused
    | exact k.attnEn.trans h.attnEn
    | exact k.chainCause.trans h.chainCause
    | exact k.anchor.trans h.anchor
    | exact k.bankA.trans h.bankA
    | exact k.bankB.trans h.bankB
    | exact k.fire.trans h.fire
    | exact k.bus.trans h.bus
    | exact k.line.trans h.line
    | exact k.epos.trans h.epos
    | exact k.web.trans h.web
    | exact k.stillTimer.trans h.stillTimer
    | exact k.qualifier.trans h.qualifier

/-- all but the jobs from frames -/
theorem State.Kept.mk' {s t : State} (c : t.ctl = s.ctl) (p : t.pins = s.pins) (q : t.pending = s.pending)
    (a : t.walker.anchor = s.walker.anchor)
  (m : t.mapper.bankA = s.mapper.bankA ∧ t.mapper.bankB = s.mapper.bankB)
      (o : t.outs.fire = s.outs.fire ∧ t.outs.bus = s.outs.bus)
      (k : t.tracker.line = s.tracker.line ∧ t.tracker.epos = s.tracker.epos ∧ t.tracker.web = s.tracker.web ∧
      t.tracker.stillTimer = s.tracker.stillTimer ∧ t.tracker.qualifier = s.tracker.qualifier) (j : JobsKept s t) :
      s.Kept t := by
  constructor
  case jobs => exact j
  all_goals simp only [c, p, q, a, m, o, k, BitVec.and_self]

theorem takeFault_anchor (s : State) (x c e) : (s.takeFault x c e).walker.anchor = s.walker.anchor := by
  unfold State.takeFault; split
  · dsimp only
    split <;> split <;> simp [State.abandon, State.oweLook]
  · rfl

theorem kept_takeFault (s : State) (x c e) : s.Kept (s.takeFault x c e) :=
  State.Kept.mk' (by simp) (by simp) (by simp) (takeFault_anchor ..) (by simp) (by simp) (by simp)
      (jobsKept_takeFault s x c e)

theorem kept_faultBuilding (s : State) (c e) : s.Kept (s.faultBuilding c e) := by
  unfold State.faultBuilding; split
  · exact .refl s
  · exact kept_takeFault ..

theorem kept_faultCounting (s : State) (c) : s.Kept (s.faultCounting c) := by
  unfold State.faultCounting; split
  · exact .refl s
  · exact kept_takeFault ..

/-- only the fields outside Kept change -/
theorem State.Kept.of_eq {s t : State} (c : t.ctl = s.ctl) (p : t.pins = s.pins) (q : t.pending = s.pending)
    (a : t.walker.anchor = s.walker.anchor)
  (m : t.mapper.bankA = s.mapper.bankA ∧ t.mapper.bankB = s.mapper.bankB)
      (o : t.outs.fire = s.outs.fire ∧ t.outs.bus = s.outs.bus) (k : t.tracker = s.tracker) (j : t.slots = s.slots) :
      s.Kept t :=
  Kept.mk' c p q a m o (by simp [k]) (.of_eq j)

theorem kept_mapBuilder (s : State) (f) : s.Kept (s.mapBuilder f) := .of_eq rfl rfl rfl rfl ⟨rfl, rfl⟩ ⟨rfl, rfl⟩ rfl
    rfl

theorem kept_requestRead (s : State) (k a n) : s.Kept (s.requestRead k a n) := by
  refine .of_eq (by simp) (by simp) (by simp) (by simp) (by simp) (by simp) (by simp) (by simp)

theorem kept_endBuilding (s : State) : s.Kept s.endBuilding := by
  refine State.Kept.mk' (by simp) (by simp) (by simp) ?_ (by simp) (by simp) (by simp) ?_
  · unfold State.endBuilding State.oweLook; split <;> simp
  · unfold State.endBuilding; split
    · exact .of_eq rfl
    · rename_i x _
      exact jobsKept_mapJob { s with builder := { Builder.reset with orphan := s.builder.orphan } } x _ fun j =>
          ⟨rfl, rfl, rfl, rfl, rfl, fun _ h => h, rfl⟩

theorem kept_entered (s : State) (t) : s.Kept (s.entered t) := by
  unfold State.entered State.walkOn State.walkAt; repeat' split
  all_goals first | exact kept_mapBuilder .. | exact kept_endBuilding .. | exact .refl s

theorem kept_enqueue (s : State) (it) : s.Kept (s.enqueue it) := by
  refine State.Kept.mk' (by simp) (by simp) (by simp) (by simp) (by simp) (by simp) (by simp) ?_
  have : JobsKept s (s.countEmitted it) := by
    unfold State.countEmitted; split
    · exact jobsKept_mapJob _ _ _ fun j => ⟨rfl, rfl, rfl, rfl, rfl, fun _ h => h, rfl⟩
    all_goals exact .of_eq rfl
  exact this.trans (.of_eq rfl)

theorem kept_enterHeld (s : State) (it) : s.Kept (s.enterHeld it) := (kept_enqueue s it).trans (kept_entered ..)

theorem kept_emit (s : State) (it) : s.Kept (s.emit it) := by
  unfold State.emit; split
  · exact kept_enterHeld ..
  · exact kept_mapBuilder ..

theorem kept_actOn (s : State) (x t) : s.Kept (s.actOn x t) := by
  unfold State.actOn State.endWalk State.startTable State.startSetupBlock State.requestEntry State.walkOn;
      repeat' split
  all_goals first
    | (with_reducible exact .refl s)
    | (with_reducible exact kept_emit ..)
    | (with_reducible exact kept_requestRead ..)
    | (with_reducible exact kept_mapBuilder ..)
    | (with_reducible exact kept_faultBuilding ..)

theorem kept_abortShift (s : State) : s.Kept s.abortShift := by
  refine State.Kept.mk' (by simp) (by simp) (by simp) (by simp) (by simp) ?_ (by simp) ?_
  · unfold State.abortShift; split <;> simp [State.stopShift]
  · unfold State.abortShift; split
    · exact .of_eq rfl
    · exact jobsKept_mapJob s.stopShift _ _ fun j => ⟨rfl, rfl, rfl, rfl, rfl, fun _ h => h, rfl⟩
    · exact .of_eq rfl

theorem kept_head (s : State) (h : HeadLink) : s.Kept { s with head := h } := .of_eq rfl rfl rfl rfl ⟨rfl, rfl⟩
    ⟨rfl, rfl⟩ rfl rfl

theorem kept_firing (s : State) (h : Firing) : s.Kept { s with firing := h } := .of_eq rfl rfl rfl rfl ⟨rfl, rfl⟩
    ⟨rfl, rfl⟩ rfl rfl

theorem kept_queue (s : State) (h) : s.Kept { s with queue := h } := .of_eq rfl rfl rfl rfl ⟨rfl, rfl⟩ ⟨rfl, rfl⟩ rfl
    rfl

theorem kept_rowTrigger (s : State) : s.Kept s.rowTrigger := by
  have co : s.Kept (s.countIn Counts.overspeed) := State.Kept.mk' (by simp) (by simp) (by simp) (by simp) (by simp)
      (by simp) (by simp) (jobsKept_countIn _ _ fun _ => rfl)
  have cu : s.Kept (s.countIn Counts.underrun) := State.Kept.mk' (by simp) (by simp) (by simp) (by simp) (by simp)
      (by simp) (by simp) (jobsKept_countIn _ _ fun _ => rfl)
  unfold State.rowTrigger State.loseTrigger; repeat' split
  · exact co.trans (kept_faultCounting ..)
  · exact co
  · exact cu.trans (kept_faultCounting ..)
  · exact cu
  · exact kept_firing ..
  · exact ((kept_queue s _).trans (kept_abortShift _)).trans (.of_eq rfl rfl rfl rfl ⟨rfl, rfl⟩ ⟨rfl, rfl⟩ rfl rfl)
  all_goals exact .refl s

theorem kept_dividerExpires (s : State) : s.Kept s.dividerExpires := by
  simp only [State.dividerExpires]; split
  · exact (kept_rowTrigger s).trans (kept_firing ..)
  · exact kept_rowTrigger s

theorem kept_applyStaged (s : State) : s.Kept s.applyStaged := by
  unfold State.applyStaged; split
  · exact kept_firing ..
  all_goals
    refine State.Kept.mk' (by simp) (by simp) (by simp) ?_ ?_ (by simp) ?_ (.of_eq (by simp))
    all_goals
      simp only [State.applyParams, State.applyHeadSetup]
      split <;> simp [Mapper.applySetup, Tracker.applySetup]

theorem kept_completing (s : State) (x) : JobsKept s (s.completing x) := jobsKept_mapJob _ _ _ fun j =>
    ⟨rfl, rfl, rfl, rfl, rfl, fun _ h => h, rfl⟩

theorem kept_beginCompletion (s : State) (x) : s.Kept (s.beginCompletion x) :=
  State.Kept.mk' (by simp) (by simp) (by simp) (by simp) (by simp) (by simp) (by simp)
      ((kept_completing s x).trans (.of_eq rfl))

theorem kept_tryHead {s t : State} (e : s.tryHead = some t) : s.Kept t := by
  unfold State.tryHead State.tryEnd at e
  split at e
  · simp at e; subst e; exact .of_eq rfl rfl rfl rfl ⟨rfl, rfl⟩ ⟨rfl, rfl⟩ rfl rfl
  · simp at e; subst e; exact (kept_queue s _).trans (kept_applyStaged _)
  · split at e <;> simp at e; subst e; exact kept_firing ..
  · split at e
    · split at e <;> simp at e; subst e; exact (kept_queue s _).trans (kept_beginCompletion ..)
    · cases e
  · cases e
  · cases e

theorem kept_tryCompletions {s t : State} (e : s.tryCompletions = some t) : s.Kept t := by
  have one : ∀ x t, s.tryCompletion x = some t → s.Kept t := by
    intro x t e; unfold State.tryCompletion at e; split at e <;> simp at e; subst e; exact kept_beginCompletion ..
  unfold State.tryCompletions at e; split at e
  · simp at e; subst e
    exact State.Kept.mk' (by simp) (by simp) (by simp) (by simp) (by simp) (by simp) (by simp)
        ((kept_completing s .slot0).trans ((kept_completing _ .slot1).trans
        (.of_eq (by simp [State.beginBoth, State.addTasks]; split <;> rfl))))
  · rw [Option.or_eq_some_iff] at e; rcases e with e | ⟨-, e⟩
    · exact one _ _ e
    · exact one _ _ e

theorem kept_enterStopped (s : State) (q : s.quietEngine = true) : s.Kept s.enterStopped := by
  simp [State.quietEngine] at q
  obtain ⟨⟨⟨⟨a, b⟩, -⟩, w⟩, -⟩ := q
  unfold State.enterStopped
  set u := State.firingRest
      (State.mapTracker { s.setEngine .stopped with walker := { s.walker with state := .idle, stage := .none } }
      Tracker.forget) with hu
  have hs := headOff_slots (s := u) a b
  have k1 : s.Kept u := by
    constructor
    case attn => exact BitVec.and_self
    case jobs => exact JobsKept.of_eq rfl
    all_goals rfl
  have k2 : u.Kept u.headOff := by
    refine State.Kept.mk' (by simp) (by simp) (by simp) (by simp) (by simp) ?_ (by simp) (.of_eq hs)
    have := kept_abortShift u
    exact ⟨this.fire, this.bus⟩
  refine (k1.trans k2).trans ?_
  constructor
  case jobs => exact JobsKept.of_eq rfl
  case attn => simp only [State.raise]; ext i; simp; tauto
  all_goals rfl

theorem kept_ownStep {s t : State} (e : s.ownStep = some t) : s.Kept t := by
  rcases ownStep_cases e with e | e | e | e | e | e | e | e | e | e | e | e
  · exact kept_tryHead e
  · unfold State.tryDivider at e; split at e <;> simp at e; subst e; exact kept_dividerExpires s
  · unfold State.tryHeld at e; split at e
    · split at e <;> simp at e; subst e; exact kept_enterHeld ..
    · cases e
  · unfold State.tryStage at e; split at e
    · split at e <;> simp at e; subst e; exact (kept_mapBuilder s _).trans (kept_actOn ..)
    · cases e
  · unfold State.tryWalk at e; split at e
    · split at e <;> simp at e; subst e; exact kept_actOn ..
    · cases e
  · unfold State.tryFree at e; split at e <;> simp at e; subst e; exact kept_firing ..
  · exact kept_tryCompletions e
  · unfold State.tryDrainEnd at e; split at e <;> simp at e; subst e; exact kept_enterStopped s (by simp_all)
  · unfold State.tryLook at e; split at e <;> simp at e; subst e;
        exact .of_eq rfl rfl rfl rfl ⟨rfl, rfl⟩ ⟨rfl, rfl⟩ rfl rfl
  · unfold State.tryWriter at e; split at e <;> simp at e; obtain ⟨_, _, rfl⟩ := e;
        exact .of_eq rfl rfl rfl rfl ⟨rfl, rfl⟩ ⟨rfl, rfl⟩ rfl rfl
  · unfold State.tryWant at e; split at e <;> simp at e; obtain ⟨_, _, rfl⟩ := e;
        exact .of_eq rfl rfl rfl rfl ⟨rfl, rfl⟩ ⟨rfl, rfl⟩ rfl rfl
  · unfold State.tryGrant at e; split at e <;> simp at e; obtain ⟨_, _, rfl⟩ := e;
        exact .of_eq rfl rfl rfl rfl ⟨rfl, rfl⟩ ⟨rfl, rfl⟩ rfl rfl

/-! ### Unstopped -/

theorem State.Unstopped.of_eq {s t : State} (c : t.ctl = s.ctl) (h : t.head = s.head) (k : t.tracker = s.tracker) :
    s.Unstopped t :=
  ⟨c, by rw [h], by rw [h], by rw [k], by rw [k]⟩

theorem State.Unstopped.refl (s : State) : s.Unstopped s := .of_eq rfl rfl rfl

theorem State.Unstopped.trans {s t u : State} (h : s.Unstopped t) (k : t.Unstopped u) : s.Unstopped u :=
  ⟨k.1.trans h.1, k.2.trans h.2, k.3.trans h.3, k.4.trans h.4, k.5.trans h.5⟩

theorem not_quiet {s : State} (h : s.NotEnding) :
    ¬((s.ctl.engine = .draining ∨ s.ctl.engine = .abandoning) ∧ s.quietEngine = true) := by
  rintro ⟨e, q⟩
  simp [State.quietEngine] at q
  rcases h with h | ⟨x, hx⟩
  · rcases e with e | e <;> simp_all
  · apply hx; cases x
    · exact q.1.1.1.1
    · exact q.1.1.1.2

theorem State.NotEnding.kept {s t : State} (h : s.NotEnding) (k : s.Kept t) (c : t.ctl = s.ctl) : t.NotEnding := by
  rcases h with h | ⟨x, hx⟩
  · left; rw [c]; exact h
  · right; refine ⟨x, ?_⟩
    obtain ⟨j, e⟩ := Option.ne_none_iff_exists'.mp hx
    obtain ⟨j', e', -⟩ := (k.jobs x).2 j e
    simp [e']

theorem unstopped_rowTrigger (s : State) : s.Unstopped s.rowTrigger := by
  unfold State.rowTrigger; repeat' split
  · exact .of_eq (by simp) (by simp) (by simp)
  · exact .of_eq (by simp) (by simp) (by simp)
  · exact .of_eq rfl rfl rfl
  · refine ⟨by simp, ?_, ?_, by simp, by simp⟩
    · simp [State.startRowShift, State.tickleOff, State.beginShift, abortShift_state]
    · simp [State.startRowShift, State.tickleOff, State.beginShift]
      unfold State.abortShift; split <;> simp [State.stopShift, State.discardRows]
  all_goals exact .refl s

theorem unstopped_ownStep {s t : State} (n : s.NotEnding) (e : s.ownStep = some t) : s.Unstopped t := by
  rcases ownStep_cases e with e | e | e | e | e | e | e | e | e | e | e | e
  · unfold State.tryHead State.tryEnd at e
    split at e
    · simp at e; subst e; exact .of_eq rfl rfl rfl
    · simp at e; subst e
      unfold State.takeSetup State.applyStaged; split
      · exact .of_eq rfl rfl rfl
      all_goals
        simp only [State.applyParams, State.applyHeadSetup]; split
        all_goals constructor <;> simp [State.restartIdle, State.tickleOff, Tracker.applySetup]
    · split at e <;> simp at e; subst e; exact .of_eq rfl rfl rfl
    · split at e
      · split at e <;> simp at e; subst e; exact .of_eq (by simp) (by simp) (by simp)
      · cases e
    · cases e
    · cases e
  · unfold State.tryDivider at e; split at e <;> simp at e; subst e
    simp only [State.dividerExpires]; split
    · exact (unstopped_rowTrigger s).trans (.of_eq rfl rfl rfl)
    · exact unstopped_rowTrigger s
  · unfold State.tryHeld at e; split at e
    · split at e <;> simp at e; subst e; exact .of_eq (by simp) (by simp) (by simp)
    · cases e
  · unfold State.tryStage at e; split at e
    · split at e <;> simp at e; subst e; exact .of_eq (by simp) (by simp) (by simp)
    · cases e
  · unfold State.tryWalk at e; split at e
    · split at e <;> simp at e; subst e; exact .of_eq (by simp) (by simp) (by simp)
    · cases e
  · unfold State.tryFree at e; split at e <;> simp at e; subst e; exact .of_eq rfl rfl rfl
  · unfold State.tryCompletions State.tryCompletion at e; split at e
    · simp at e; subst e; exact .of_eq (by simp) (by simp) (by simp)
    · rw [Option.or_eq_some_iff] at e; rcases e with e | ⟨-, e⟩
      all_goals split at e <;> simp at e; subst e; exact .of_eq (by simp) (by simp) (by simp)
  · unfold State.tryDrainEnd at e; rw [if_neg (not_quiet n)] at e; cases e
  · unfold State.tryLook at e; split at e <;> simp at e; subst e; exact .of_eq rfl rfl rfl
  · unfold State.tryWriter at e; split at e <;> simp at e; obtain ⟨_, _, rfl⟩ := e; exact .of_eq rfl rfl rfl
  · unfold State.tryWant at e; split at e <;> simp at e; obtain ⟨_, _, rfl⟩ := e; exact .of_eq rfl rfl rfl
  · unfold State.tryGrant at e; split at e <;> simp at e; obtain ⟨_, _, rfl⟩ := e; exact .of_eq rfl rfl rfl

end Sys2Proof.Machine
end

