-- ==== Sys2Proof/WellFormed.lean ====
section
/-! DEFINITION. Which commands the outside can send: a read brings as many words as the transaction has (TABLE 7-7,
R27, R29, R32, R37, R39, R40, R132), and a bus write covers 1 to 4 bytes (R158). -/

namespace Sys2Proof

/-- A burst read of between `least` and `most` words; a bus error delivers none (R146). -/
def ReadResult.wf (least most : Nat) : ReadResult → Bool
  | .data words => least ≤ words.length && words.length ≤ most
  | .busError => true

/-- The operands of a command are ones the part's surroundings can produce. -/
def Instr.wf : Instr → Bool
  | .registerWrite _ bytes _ => 1 ≤ bytes && bytes ≤ 4
  | .entryReadDone r _ => r.wf 8 8
  | .rowReadDone r => r.wf 1 81
  | .overlayReadDone r => r.wf 1 41
  | .tableReadDone r => r.wf 5 5
  | .setupBlockReadDone r => r.wf 16 16
  | .mapReadDone r => r.wf 40 40
  | .headerReadDone r => r.wf 12 12
  | .start | .stop | .halt | .skip | .look | .reset => true
  | .chainWrite _ | .attnWrite _ | .attnEnWrite _ => true
  | .pinResetAssert | .pinResetRelease => true
  | .encoderStep _ | .illegalTransition | .markActiveEdge | .markInactiveEdge => true
  | .headPresentInactive | .headPresentActive => true
  | .stillTimerExpiry | .warmupExpiry | .firePulse | .ticklePulse => true
  | .tickleIdleExpiry | .periodTimerExpiry | .pollTimerExpiry | .dividerExpiry => true
  | .linkReadDone _ | .stateReadDone _ | .takeExchangeDone _ => true
  | .resultWriteDone _ | .stateUpdateDone _ | .releaseDone _ => true
  | .portGrant | .chainLook | .heldItemEnter | .stageWaitEnd => true
  | .freeStart | .endTaken | .completionBegin _ | .drainEnd => true

end Sys2Proof
end

