-- ==== Sys2Proof/Tests/Slice0.lean ====
section
/-! SUPPORT. The author's own tests: ill-formed commands that the check refuses, worked values of the manual, one small
test per kind of command, and for every statement with hypotheses states that meet them. -/

namespace Sys2Proof.Tests

open Sys2Proof.Machine

/-! ### Well-formedness: each check refuses an ill-formed term -/

theorem test_wf_write_of_no_byte : (Instr.registerWrite 4#32 0 1#32).wf = false := by decide
theorem test_wf_write_of_five_bytes : (Instr.registerWrite 4#32 5 1#32).wf = false := by decide
theorem test_wf_write_of_one_byte : (Instr.registerWrite 4#32 1 1#32).wf = true := by decide
theorem test_wf_entry_of_seven_words :
    (Instr.entryReadDone (.data (List.replicate 7 0#32)) false).wf = false := by decide
theorem test_wf_entry_of_eight_words :
    (Instr.entryReadDone (.data (List.replicate 8 0#32)) false).wf = true := by decide
theorem test_wf_row_of_no_word : (Instr.rowReadDone (.data [])).wf = false := by decide
theorem test_wf_row_of_82_words : (Instr.rowReadDone (.data (List.replicate 82 0#32))).wf = false := by decide
theorem test_wf_overlay_of_42_words :
    (Instr.overlayReadDone (.data (List.replicate 42 0#32))).wf = false := by decide
theorem test_wf_table_of_four_words : (Instr.tableReadDone (.data (List.replicate 4 0#32))).wf = false := by decide
theorem test_wf_setup_block_of_17_words :
    (Instr.setupBlockReadDone (.data (List.replicate 17 0#32))).wf = false := by decide
theorem test_wf_map_of_39_words : (Instr.mapReadDone (.data (List.replicate 39 0#32))).wf = false := by decide
theorem test_wf_header_of_11_words : (Instr.headerReadDone (.data (List.replicate 11 0#32))).wf = false := by decide
theorem test_wf_bus_error : (Instr.headerReadDone .busError).wf = true := by decide

/-! ### States the tests use -/

/-- The state a command leaves. -/
def after (c : Instr) (s : State) : State :=
  match exec c s with
  | .next t => t
  | .fault _ => s
  | .refused _ => s

/-- The reset state in another engine state. -/
def inEngine (e : EngineState) : State := { State.reset with ctl := { State.reset.ctl with engine := e } }

/-- A print job of three entries at 0x100, with NOTIFY and STRICT. -/
def job : Job := ⟨0x100#32, 1#2, 3, true, true, .building, none, Counts.zero, ⟨0, 0, 0⟩⟩

/-- The same, BUILT. -/
def builtJob : Job := { job with phase := .built }

/-- The engine RUNNING with one job. -/
def holding (j : Job) : State := { inEngine .running with slots := ⟨some j, none, .slot0⟩ }

/-- A state with the head READY. -/
def ready (s : State) : State := { s with head := { s.head with state := .ready } }

/-- A state with the print state IN and the divider at a count. -/
def printing (s : State) (count : Nat) : State :=
  { ready s with firing := { s.firing with print := .into, divider := some count } }

/-- A state with a queue of items. -/
def queued (s : State) (items : List Item) : State := { s with queue := items }

/-- The builder in FETCHING on the job of slot 0, whose read is in progress. -/
def fetching (kind : TxKind) (task : BuildTask) : State :=
  { holding job with
    builder := { Builder.reset with state := .fetching, job := some .slot0, task := task }
    port := { Port.reset with current := some ⟨kind, 0x130#32, 8, 0#32, true⟩ } }

/-- The walker at a stage of a look, with a transaction in progress at 0x200. -/
def looking (stage : LookStage) (kind : TxKind) : State :=
  { inEngine .running with
    walker := { State.reset.walker with state := .looking, stage := stage }
    port := { Port.reset with current := some ⟨kind, 0x200#32, 1, 0#32, true⟩ } }

/-- The record writer with a list of tasks and a transaction in progress. -/
def writing (tasks : List WriteTask) (kind : TxKind) : State :=
  { holding { job with phase := .completing } with
    writer := ⟨tasks, 0⟩
    port := { Port.reset with current := some ⟨kind, 0x100#32, 1, 7#32, true⟩ } }

/-- A head with its tickle idle timer running. -/
def headReadyIdle : HeadLink := { HeadLink.reset with idleTimer := .running 100 }

/-- A row shift of slot 0 in flight. -/
def shiftingRow (s : State) : State :=
  { s with head := { s.head with shift := .row [3#2] .slot0 2 1, shiftTimer := .running 10 } }

/-- The engine RUNNING with two jobs, that of slot 0 the older. -/
def holdingBoth (older newer : Job) : State := { inEngine .running with slots := ⟨some older, some newer, .slot0⟩ }

/-- The builder in WALKING with a task on the job of slot 0, with items in the queue. -/
def walkingAt (task : BuildTask) (index : Nat) (stack : List RepeatContext) (items : List Item) : State :=
  { queued (holding job) items with
    builder := { Builder.reset with
      state := .walking, job := some .slot0, task := task, index := index, stack := stack } }

/-! ### Worked values of the manual -/

theorem test_taken_word : takenWord 0x00000851#32 = 0x00000852#32 := by decide
theorem test_released_word : releasedWord 0x00000852#32 = 0x0000085A#32 := by decide
theorem test_completed_word : completedWord 0x00000852#32 none = 0x00000853#32 := by decide
theorem test_completed_word_released : completedWord 0x0000085A#32 none = 0x0000085B#32 := by decide
theorem test_faulted_word :
    completedWord 0x0000085A#32 (some (.entryIllegal, 5)) = 0x0502085C#32 := by decide

/-- Word 0 of an IMAGE of 40 rows with COND ODD, EXT and OPAQUE (chapter 10.3). -/
theorem test_image_word :
    let e : Entry := ⟨0x00280631#32, 0#32, 0#32, 0#32, 0#32⟩
    e.kind = some .image ∧ e.cond = .odd ∧ e.ext = true ∧ e.opaqueFlag = true ∧ e.reverse = false ∧
      e.count = 40 := by decide

/-- TABLE 2-3: pixels 0 to 2 of a row of depth 4 that begins at bit 30. -/
theorem test_pixels :
    (List.range 3).map (pixelAt (rowString [0x80000000#32, 0x00000265#32]) 30 4) = [6, 9, 9] := by decide

/-- TABLE 4-4. -/
theorem test_lengthened_rows :
    ((List.range 16).map (· + 1)).filter (lengthened 0) = [] ∧
    ((List.range 16).map (· + 1)).filter (lengthened 3) = [6, 11, 16] ∧
    ((List.range 16).map (· + 1)).filter (lengthened 5) = [4, 7, 10, 13, 16] ∧
    ((List.range 16).map (· + 1)).filter (lengthened 7) = [3, 5, 7, 10, 12, 14, 16] := by decide

/-- The map of TABLE 5-4, nozzles 199 to 208. -/
def tableMap : List NozzleState := [.good, .good, .out, .good, .weak, .out, .out, .good, .good, .good]

/-- The dots of TABLE 5-4. -/
def tableDots : List Dot :=
  [4#4, 0#4, 12#4, 0#4, 7#4, 15#4, 3#4, 0#4, 9#4, 0#4].map fun level => ⟨level, 0#2, false⟩

/-- TABLE 5-4 to TABLE 5-6: the codes, two substitutions and a lost dot. -/
theorem test_substitution_pass :
    ({ Mapper.reset with map := tableMap }.mapRow ⟨false, tableDots⟩) =
      ⟨[1#2, 3#2, 0#2, 0#2, 3#2, 0#2, 0#2, 1#2, 2#2, 0#2], 2, 1⟩ := by decide

theorem test_status_at_reset : State.reset.status = 0#32 := by decide
theorem test_id : State.reset.readRegister 0 = 0x06402C01#32 := by decide
theorem test_status_running : (printing (inEngine .running) 5).status = 0x00000051#32 := by decide

/-! ### One command each -/

theorem test_start : (after .start State.reset).ctl.engine = .running := by decide
theorem test_start_begins_a_look : (after .start State.reset).walker.stage = .link := by decide
theorem test_start_asks_for_the_link :
    (after .start State.reset).port.current = some ⟨.linkRead, 4#32, 1, 0#32, true⟩ := by decide
theorem test_stop : (after .stop (inEngine .running)).ctl.engine = .stopped := by decide
theorem test_halt : (after .halt (holding builtJob)).ctl.engine = .abandoning := by decide
theorem test_skip : (after .skip (holding builtJob)).ctl.refused = false := by decide
theorem test_look_refused : (after .look State.reset).ctl.refused = true := by decide
theorem test_reset : (after .reset (inEngine .faulted)).ctl.engine = .stopped := by decide
theorem test_chain_write : (after (.chainWrite 0x40#32) State.reset).walker.anchor = 0x40#32 := by decide
theorem test_chain_write_misaligned : (after (.chainWrite 0x44#32) State.reset).ctl.refused = true := by decide
theorem test_attn_write : (after (.attnWrite 1#32) (inEngine .running)).ctl.attn = 0#8 := by decide
theorem test_attn_enable : (after (.attnEnWrite 0xFF#32) State.reset).ctl.attnEn = 0xFF#8 := by decide
theorem test_register_write : (after (.registerWrite 4#32 4 1#32) State.reset).ctl.engine = .running := by decide
theorem test_pin_reset : (after .pinResetAssert (inEngine .running)).clrLevel = true := by decide
theorem test_pin_release : (after .pinResetRelease (after .pinResetAssert State.reset)).clrLevel = false := by decide
theorem test_encoder_step : (after (.encoderStep .forward) State.reset).tracker.epos = 1#32 := by decide
theorem test_encoder_reverse : (after (.encoderStep .reverse) State.reset).tracker.debt = 1 := by decide
theorem test_illegal_transition : (after .illegalTransition State.reset).ctl.attn = 0x40#8 := by decide
theorem test_mark_active :
    (after .markActiveEdge State.reset).tracker.qualifier = .measuring 0#32 0 ⟨.activeHigh, 4, 0, 16, 0#32⟩ := by
  decide
theorem test_mark_inactive :
    (after .markInactiveEdge (after .markActiveEdge State.reset)).tracker.qualifier = .waiting := by decide
theorem test_head_lost : (after .headPresentInactive (ready (inEngine .running))).head.state = .lost := by decide
theorem test_head_lost_takes_the_end :
    let t := after .headPresentInactive (shiftingRow (queued (ready (holding builtJob)) [.finish .slot0]))
    t.queue = [] ∧
      (t.slots.slot0.map fun j => (j.phase, j.fault, j.account.discarded)) = some (.completing, none, 1) := by decide
theorem test_head_lost_spares_the_newer_job :
    let cancelled : Job := { builtJob with fault := some (.cancelled, 0) }
    let t := after .headPresentInactive (shiftingRow (ready (holdingBoth cancelled builtJob)))
    (t.slots.slot0.map fun j => (j.phase, j.fault)) = some (.completing, some (.cancelled, 0)) ∧
      (t.slots.slot1.map fun j => j.fault) = some none := by decide
theorem test_chain_fault_lets_the_read_of_the_builder_complete :
    let read : Transaction := ⟨.rowRead, 0x1000#32, 80, 0#32, true⟩
    let s : State := { looking .link .linkRead with
      port := ⟨some ⟨.linkRead, 0x200#32, 1, 0#32, true⟩, some read, none, none, false⟩ }
    let t := after (.linkReadDone .busError) s
    t.ctl.engine = .faulted ∧ t.port = ⟨some read.disowned, none, none, none, false⟩ ∧
      (after (.rowReadDone (.data [])) t).port = Port.reset := by decide
/-- A writer's bus error with an exchange waiting: the exchange is the transaction in progress at the entry, and writes
TAKEN. A request of the writer makes no transaction. -/
theorem test_chain_fault_lets_the_exchange_complete :
    let exchange : Transaction := ⟨.takeExchange, 0x200#32, 1, 0#32, true⟩
    let write : Transaction := ⟨.resultWrite, 0x10C#32, 1, 7#32, true⟩
    let s : State := { writing [.completion .slot0 0#32] .resultWrite with
      port := ⟨some write, none, none, some exchange, false⟩ }
    let t := after (.resultWriteDone .busError) s
    t.ctl.engine = .faulted ∧ t.port = ⟨some exchange.disowned, none, none, none, false⟩ ∧
      (after (.takeExchangeDone (.data 0x851#32)) t).outs.bus = .wrote 0x200#32 0x852#32 ∧
      (Port.atFault ⟨none, none, some write, none, false⟩) = Port.reset := by decide
theorem test_no_grant_in_faulted :
    (after .portGrant { inEngine .faulted with
      port := { Port.reset with writerReq := some ⟨.release, 0#32, 1, 0#32, true⟩ } }).port.current = none := by decide
theorem test_reset_pulses_twice : (after .reset (shiftingRow (ready (inEngine .running)))).outs.clr = 2 := by decide
theorem test_reset_in_off_pulses_once : (after .reset State.reset).outs.clr = 1 := by decide
theorem test_reset_makes_the_result_write :
    (after .reset (writing [.completion .slot0 0#32] .resultWrite)).outs.bus = .wrote 0x100#32 7#32 := by decide
theorem test_fire_pulse :
    (after .firePulse (shiftingRow (ready (holding builtJob)))).outs.fire = some .fire := by decide
theorem test_tickle_idle :
    (after .tickleIdleExpiry { ready (inEngine .running) with
      mapper := { Mapper.reset with map := tableMap }
      head := { headReadyIdle with state := .ready } }).head.tickleActive = true := by decide
theorem test_port_grant :
    (after .portGrant { State.reset with
      port := { Port.reset with writerReq := some ⟨.release, 0#32, 1, 0#32, true⟩ } }).port.current =
        some ⟨.release, 0#32, 1, 0#32, true⟩ := by decide
theorem test_link_zero :
    (after (.linkReadDone (.data 0#32)) (looking .link .linkRead)).walker.state = .waiting := by decide
theorem test_link_misaligned :
    (after (.linkReadDone (.data 4#32)) (looking .link .linkRead)).ctl.chainCause = .linkMisaligned := by decide
theorem test_state_ready :
    (after (.stateReadDone (.data 0x851#32)) (looking (.state 0x200#32) .stateRead)).walker.stage =
      .header 0x200#32 := by decide
theorem test_take :
    (after (.takeExchangeDone (.data 0x851#32))
      (looking (.exchange 0x200#32 ⟨1#2, 8, true, false⟩) .takeExchange)).outs.bus =
        .wrote 0x200#32 0x852#32 := by decide
theorem test_take_asks_for_entry_0 :
    (after (.takeExchangeDone (.data 0x851#32))
      (looking (.exchange 0x200#32 ⟨1#2, 8, true, false⟩) .takeExchange)).port.builderReq =
        some ⟨.entryRead, 0x230#32, 8, 0#32, true⟩ := by decide
theorem test_wait_mark :
    (after (.entryReadDone (.data [4#32]) false) (fetching .entryRead .entry)).queue = [.hold .slot0] := by decide
theorem test_end :
    (after (.entryReadDone (.data [9#32]) false) (fetching .entryRead .entry)).builder.state = .free := by decide
theorem test_state_update :
    (after (.stateUpdateDone (.data 0x85A#32)) (writing [.completion .slot0 0#32] .stateUpdate)).outs.bus =
      .wrote 0x100#32 0x85B#32 := by decide

/-! ### States that meet the hypotheses of the statements, clause by clause -/

theorem linked_running : (inEngine .running).Linked :=
  linked_ctl (linked_afterReset _ _ _ _ _) (by simp [EngineState.resting])

theorem witness_StepRunsFrontCommand : ∃ s : State, s.pending = [] := ⟨State.reset, rfl⟩

theorem witness_OwnStepsKeep :
    (∃ s : State, s.NotEnding ∧ s.ctl.engine = .running) ∧ ∃ s : State, s.NotEnding ∧ s.ctl.engine = .draining :=
  ⟨⟨inEngine .running, .inl (by simp [inEngine]), rfl⟩,
    ⟨{ holding job with ctl := (inEngine .draining).ctl }, .inr ⟨.slot0, by decide⟩, rfl⟩⟩

theorem witness_Resets :
    (∃ s : State, s.pins.resetActive = false ∧ s.head.shift = .idle ∧ s.head.state = .off) ∧
    (∃ s : State, s.pins.resetActive = false ∧ s.head.shift ≠ .idle ∧ s.head.state = .ready) ∧
    (∃ s : State, s.pins.resetActive = true) ∧
    (∃ p : Port, p.current = none ∧ p.writerReq ≠ none) ∧
    ∀ kind : TxKind, ∃ (p : Port) (t : Transaction), p.current = some t ∧ t.kind = kind :=
  ⟨⟨State.reset, rfl, rfl, rfl⟩, ⟨shiftingRow (ready (holding builtJob)), rfl, by decide, rfl⟩,
    ⟨after .pinResetAssert State.reset, by decide⟩,
    ⟨{ Port.reset with writerReq := some ⟨.resultWrite, 0x10C#32, 1, 7#32, true⟩ }, rfl, by decide⟩,
    fun kind => ⟨{ Port.reset with current := some ⟨kind, 0x10C#32, 1, 7#32, true⟩ }, _, rfl, rfl⟩⟩

/-- A command that moves a pin, and one that moves none, with RESET active. -/
theorem test_pins_in_reset :
    let s := after .pinResetAssert (inEngine .running)
    (after .markActiveEdge s).pins = { Pins.reset with mark := true, resetActive := true } ∧
    (after (.registerWrite 4#32 4 1#32) s).pins = { Pins.reset with resetActive := true } := by decide

theorem witness_StartEntersRunning :
    (∃ s : State, s.pins.resetActive = false ∧ s.ctl.engine = .stopped ∧ s.pins.headPresent = true ∧
      s.head.settings.warmupTime ≠ 0 ∧ s.Linked ∧ s.walker.state ≠ .looking ∧ s.writer.list = []) ∧
    (∃ s : State, s.pins.resetActive = false ∧ s.ctl.engine = .stopped ∧ s.pins.headPresent = true ∧
      s.head.settings.warmupTime = 0) ∧
    (∃ s : State, s.pins.resetActive = false ∧ s.ctl.engine = .stopped ∧ s.pins.headPresent = false) ∧
    ∃ s : State, s.pins.resetActive = false ∧ s.ctl.engine = .draining :=
  ⟨⟨State.reset, rfl, rfl, rfl, by decide, linked_afterReset _ _ _ _ _, by decide, rfl⟩,
    ⟨{ State.reset with head := { HeadLink.reset with settings := { HeadSettings.reset with warmupTime := 0 } } },
      rfl, rfl, rfl, rfl⟩,
    ⟨{ State.reset with pins := { Pins.reset with headPresent := false } }, rfl, rfl, rfl⟩,
    ⟨inEngine .draining, rfl, rfl⟩⟩

theorem witness_StopDrains :
    (∃ s : State, s.pins.resetActive = false ∧ s.ctl.engine = .running ∧ s.Linked ∧ s.slots.slot0 = none ∧
      s.slots.slot1 = none ∧ s.walker.stage = .none ∧ s.writer.list = [] ∧
      s.port.outstanding .walker = false) ∧
    (∃ s : State, s.pins.resetActive = false ∧ s.ctl.engine = .running ∧ s.walker.stage = .releaseWait) ∧
    (∃ (s : State) (linked : Word) (header : Header),
      s.pins.resetActive = false ∧ s.ctl.engine = .running ∧ s.walker.stage = .exchange linked header) ∧
    ∃ s : State, s.pins.resetActive = false ∧ s.ctl.engine = .running ∧ s.walker.stage.reads = true :=
  ⟨⟨inEngine .running, rfl, rfl, linked_running, rfl, rfl, rfl, rfl, rfl⟩,
    ⟨looking .releaseWait .release, rfl, rfl, rfl⟩,
    ⟨looking (.exchange 0x200#32 ⟨1#2, 8, true, false⟩) .takeExchange, _, _, rfl, rfl, rfl⟩,
    ⟨looking .link .linkRead, rfl, rfl, rfl⟩⟩

/-- A state with a held job that meets the invariant. -/
theorem linked_holding : (holding builtJob).Linked where
  items := by simp [holding, inEngine, State.reset, State.afterReset]
  ends := by simp [holding, inEngine, State.reset, State.afterReset]
  ended := by simp [holding, inEngine, State.reset, State.afterReset]
  building := by simp [holding, inEngine, State.reset, State.afterReset, Builder.reset]
  busy := by simp [holding, inEngine, State.reset, State.afterReset, Builder.reset]
  phase := by
    intro x j e p; exfalso; cases x <;> simp [holding, State.job, Slots.get] at e
    subst e; simp [builtJob] at p
  free := fun _ => ⟨rfl, rfl, rfl, rfl⟩
  held := by simp [holding, inEngine, State.reset, State.afterReset, Builder.reset]
  shift := by simp [holding, inEngine, State.reset, State.afterReset, State.shifting, HeadLink.reset]
  tasks := by
    refine ⟨List.nodup_nil, fun x => ⟨fun h => absurd h (List.not_mem_nil), ?_⟩⟩
    rintro ⟨j, e, p⟩; exfalso; cases x <;> simp [holding, State.job, Slots.get] at e
    subst e; simp [builtJob] at p
  looking := fun h => absurd rfl h
  account := by
    intro x j e; cases x <;> simp [holding, State.job, Slots.get] at e
    subst e; rfl
  fired := by
    intro x j e; cases x <;> simp [holding, State.job, Slots.get] at e
    subst e; rfl
  resting := by intro h; simp [holding, inEngine, EngineState.resting] at h

theorem witness_HaltAbandons :
    (∃ (s : State) (x : SlotId) (j : Job), s.pins.resetActive = false ∧ s.ctl.engine = .running ∧ s.Linked ∧
      s.job x = some j ∧ j.fault = none ∧ j.phase ≠ .completing ∧ s.job (otherSlot x) = none) ∧
    ∃ s : State, s.pins.resetActive = false ∧ s.ctl.engine = .draining ∧ s.Linked :=
  ⟨⟨holding builtJob, .slot0, builtJob, rfl, rfl, linked_holding, rfl, rfl, by decide, rfl⟩,
    ⟨inEngine .draining, rfl, rfl, linked_ctl (linked_afterReset _ _ _ _ _) (by simp [EngineState.resting])⟩⟩

theorem witness_SkipCancels :
    ∃ (s : State) (x : SlotId) (j : Job), s.pins.resetActive = false ∧ s.ctl.engine = .running ∧
      s.countingJob = some x ∧ s.job x = some j ∧ j.fault = none :=
  ⟨holding job, .slot0, job, rfl, rfl, rfl, rfl, rfl⟩

theorem witness_LookOwesALook :
    (∃ s : State, s.pins.resetActive = false ∧ s.ctl.engine = .running) ∧
    ∃ s : State, s.pins.resetActive = false ∧ s.ctl.engine ≠ .running :=
  ⟨⟨inEngine .running, rfl, rfl⟩, ⟨State.reset, rfl, by decide⟩⟩

theorem witness_CommandsRefused :
    (∀ e : EngineState, ∃ s : State, s.pins.resetActive = false ∧ s.ctl.engine = e ∧ s.countingJob = none) ∧
    (∃ (s : State) (x : SlotId) (j : Job), s.pins.resetActive = false ∧ s.countingJob = some x ∧
      s.job x = some j ∧ j.fault ≠ none) ∧
    (∃ value : Word, value.toNat % 32 ≠ 0) ∧ ∃ value : Word, value.toNat % 32 = 0 :=
  ⟨fun e => ⟨inEngine e, rfl, rfl, rfl⟩,
    ⟨holding { job with fault := some (.underrun, 0) }, .slot0, _, rfl, rfl, rfl, by decide⟩,
    ⟨31#32, by decide⟩, ⟨32#32, by decide⟩⟩

theorem witness_AttnWriteClears : ∃ (s : State) (i : Nat), s.pins.resetActive = false ∧ i < 8 :=
  ⟨State.reset, 7, rfl, by decide⟩

theorem witness_AttnEnableWrite :
    (∃ s : State, s.pins.resetActive = false ∧ s.attnLine = true) ∧
    ∃ s : State, s.pins.resetActive = false ∧ s.attnLine = false :=
  ⟨⟨{ State.reset with ctl := { State.reset.ctl with attn := 0x80#8, attnEn := 0x80#8 } }, rfl, by decide⟩,
    ⟨State.reset, rfl, by decide⟩⟩

theorem witness_RegisterWindow :
    (∃ (offset : Word) (bytes : Nat), bytes ≠ 4 ∧ offset = 0x04#32) ∧
    (∃ (offset : Word) (bytes : Nat), bytes = 4 ∧
      offset ≠ 0x04#32 ∧ offset ≠ 0x0C#32 ∧ offset ≠ 0x10#32 ∧ offset ≠ 0x14#32) ∧
    (∃ offset, 0x14 < offset) ∧ ∃ offset k, offset % 4 = 0 ∧ k < 4 ∧ offset + k = 0x17 :=
  ⟨⟨_, 1, by decide, rfl⟩, ⟨0x08#32, _, rfl, by decide, by decide, by decide, by decide⟩, ⟨0x18, by decide⟩,
    ⟨0x14, 3, by decide, by decide, by decide⟩⟩

theorem witness_StatusFields : ∃ s : State, s.Bounded := ⟨State.reset, bounded_afterReset _ _ _ _ _⟩

/-- The reset state with a tracker. -/
def tracking (s : State) (debt : Nat) (marks : List Word) : State :=
  { s with tracker := { s.tracker with debt := debt, marks := marks } }

theorem witness_EncoderStepsClassed :
    (∃ s : State, s.pins.resetActive = false ∧ s.tracker.debt + 1 = s.tracker.settings.reverseLimit) ∧
    (∃ s : State, s.pins.resetActive = false ∧ 0 < s.tracker.debt) ∧
    (∃ s : State, s.pins.resetActive = false ∧ s.tracker.settings.reverseLimit ≤ s.tracker.debt ∧
      s.firing.print = .out ∧ s.tracker.marks = []) ∧
    (∃ s : State, s.pins.resetActive = false ∧ s.tracker.settings.reverseLimit ≤ s.tracker.debt ∧
      s.firing.print = .into ∧ s.countingJob = none) ∧
    ∃ (s : State) (x : SlotId), s.pins.resetActive = false ∧ s.tracker.settings.reverseLimit ≤ s.tracker.debt ∧
      s.tracker.marks ≠ [] ∧ s.countingJob = some x :=
  ⟨⟨tracking State.reset 1023 [], rfl, rfl⟩, ⟨tracking State.reset 1 [], rfl, by decide⟩,
    ⟨tracking State.reset 1024 [], rfl, by decide, rfl, rfl⟩,
    ⟨tracking (printing State.reset 1) 1024 [], rfl, by decide, rfl, rfl⟩,
    ⟨tracking (holding job) 1024 [0#32], .slot0, rfl, by decide, by decide, rfl⟩⟩

/-- The reset state with the web MOVING. -/
def moving : State :=
  { State.reset with tracker := { State.reset.tracker with web := .moving, stillTimer := .running 200 } }

/-- The counter of the divider: an effective step takes 1, the step to 0 expires it and reloads it, a repaying step and a
step with the print state OUT leave it. -/
theorem test_divider_counts :
    (after (.encoderStep .forward) (printing (holding job) 5)).firing.divider = some 4 ∧
    (after (.encoderStep .forward) (printing (holding job) 1)).firing.print = .out ∧
    (after (.encoderStep .forward)
      (shiftingRow (printing (holding { job with strict := false }) 1))).firing.divider = some 8 ∧
    (after (.encoderStep .forward) (tracking (printing (holding job) 5) 1 [])).firing.divider = some 5 ∧
    (after (.encoderStep .forward) (holding job)).firing.divider = none := by decide

theorem witness_WebFollowsEffectiveSteps_counter :
    (∃ s : State, s.pins.resetActive = false ∧ s.tracker.debt = 0 ∧ s.firing.print = .into ∧
      s.firing.divider = some (0 + 1) ∧ s.queue = []) ∧
    (∃ (s : State) (x : SlotId) (row : Row) (items : List Item), s.pins.resetActive = false ∧ s.tracker.debt = 0 ∧
      s.firing.print = .into ∧ s.firing.divider = some (0 + 1) ∧ s.queue = .row x row :: items) ∧
    (∃ (s : State) (x : SlotId) (items : List Item), s.pins.resetActive = false ∧ s.tracker.debt = 0 ∧
      s.firing.print = .into ∧ s.firing.divider = some (0 + 1) ∧ s.queue = .finish x :: items ∧
      s.shifting x = true) ∧
    (∃ (s : State) (x : SlotId) (j : Job) (position : Word) (rest : List Word), s.pins.resetActive = false ∧
      s.tracker.debt = 0 ∧ s.firing.print = .into ∧ s.firing.divider = some (4096 + 1) ∧ s.countingJob = some x ∧
      s.job x = some j ∧ s.tracker.marks = position :: rest ∧ reached (s.tracker.epos + 1#32) position = true) ∧
    (∃ s : State, s.pins.resetActive = false ∧ s.tracker.debt = 0 ∧ s.firing.print = .out ∧ s.tracker.marks = []) ∧
    (∃ (s : State) (position : Word) (rest : List Word), s.pins.resetActive = false ∧ s.tracker.debt = 0 ∧
      s.firing.print = .out ∧ s.tracker.marks = position :: rest ∧
      reached (s.tracker.epos + 1#32) position = false) ∧
    (∃ s : State, s.pins.resetActive = false ∧ s.tracker.debt = 0 ∧ s.firing.print = .out ∧ s.countingJob = none ∧
      s.head.state ≠ .ready) ∧
    ∃ s : State, s.pins.resetActive = false ∧ s.tracker.debt = 0 ∧ s.firing.print = .out ∧
      ∀ y items, s.queue ≠ .hold y :: items :=
  ⟨⟨printing State.reset 1, rfl, rfl, rfl, rfl, rfl⟩,
    ⟨queued (printing (holding job) 1) [.row .slot0 Row.ofBlank], _, _, _, rfl, rfl, rfl, rfl, rfl⟩,
    ⟨shiftingRow (queued (printing (holding job) 1) [.finish .slot0]), _, _, rfl, rfl, rfl, rfl, rfl, rfl⟩,
    ⟨tracking (printing (holding job) 4097) 0 [1#32], .slot0, job, _, _, rfl, rfl, rfl, rfl, rfl, rfl, rfl, rfl⟩,
    ⟨State.reset, rfl, rfl, rfl, rfl⟩, ⟨tracking State.reset 0 [2#32], _, _, rfl, rfl, rfl, rfl, rfl⟩,
    ⟨State.reset, rfl, rfl, rfl, rfl, by decide⟩, ⟨State.reset, rfl, rfl, rfl, fun _ _ e => by cases e⟩⟩

theorem witness_WebFollowsEffectiveSteps :
    (∃ s : State, s.pins.resetActive = false ∧ s.tracker.debt = 0 ∧ s.tracker.web = .still ∧
      s.tracker.stillTimer = .stopped) ∧
    ∃ s : State, s.pins.resetActive = false ∧ s.tracker.debt = 0 ∧ s.tracker.web = .moving ∧ s.NotEnding ∧
      s.tracker.stillTimer ≠ .stopped :=
  ⟨⟨State.reset, rfl, rfl, rfl, rfl⟩, ⟨moving, rfl, rfl, rfl, .inl (by decide), by decide⟩⟩

/-- A state with a qualifier. -/
def qualifying (s : State) (q : Qualifier) : State := { s with tracker := { s.tracker with qualifier := q } }

theorem witness_MeasuredWidth :
    (∃ s : State, s.pins.resetActive = false ∧ s.tracker.debt = 0 ∧ s.tracker.qualifier = .waiting) ∧
    (∃ (s : State) (edge : MarkEdge),
      s.pins.resetActive = false ∧ s.tracker.debt = 0 ∧ s.tracker.qualifier = .jammed edge) ∧
    (∃ (s : State) (leading : Word) (width : Nat) (captured : MarkSettings) (x : SlotId) (j : Job),
      s.pins.resetActive = false ∧ s.tracker.debt = 0 ∧ s.tracker.qualifier = .measuring leading width captured ∧
      (captured.max ≠ 0 ∧ width = captured.max) ∧ s.countingJob = some x ∧ s.job x = some j) ∧
    ∃ (s : State) (leading : Word) (width : Nat) (captured : MarkSettings) (x : SlotId) (j : Job),
      s.pins.resetActive = false ∧ s.tracker.debt = 0 ∧ s.tracker.qualifier = .measuring leading width captured ∧
      ¬(captured.max ≠ 0 ∧ width = captured.max) ∧ s.job x = some j ∧ width = 65535 :=
  ⟨⟨State.reset, rfl, rfl, rfl⟩, ⟨qualifying State.reset (.jammed .activeHigh), _, rfl, rfl, rfl⟩,
    ⟨qualifying (holding job) (.measuring 0#32 9 ⟨.activeHigh, 4, 9, 16, 0#32⟩), _, _, _, .slot0, job, rfl, rfl, rfl,
      by decide, rfl, rfl⟩,
    ⟨qualifying (holding job) (.measuring 0#32 65535 ⟨.activeHigh, 4, 0, 16, 0#32⟩), _, _, _, .slot0, job, rfl, rfl,
      rfl, by decide, rfl, rfl⟩⟩

theorem witness_ProductStartsJudged :
    (∃ (s : State) (position : Word) (rest : List Word) (x : SlotId) (j : Job), s.pins.resetActive = false ∧
      s.tracker.debt = 0 ∧ s.NotEnding ∧ s.tracker.marks = position :: rest ∧
      reached (s.tracker.epos + 1#32) position = true ∧ s.job x = some j ∧ s.countingJob = some x ∧
      s.firing.print = .into) ∧
    (∃ (s : State) (position : Word) (rest : List Word) (x y : SlotId) (items : List Item) (j : Job),
      s.pins.resetActive = false ∧ s.tracker.debt = 0 ∧ s.tracker.marks = position :: rest ∧
      reached (s.tracker.epos + 1#32) position = true ∧ s.job x = some j ∧ s.countingJob = some x ∧
      s.firing.print = .out ∧ s.queue = .hold y :: items ∧ s.head.state = .ready) ∧
    (∃ (s : State) (position : Word) (rest : List Word) (x : SlotId) (j : Job), s.pins.resetActive = false ∧
      s.tracker.debt = 0 ∧ s.tracker.marks = position :: rest ∧
      reached (s.tracker.epos + 1#32) position = false ∧ s.job x = some j) ∧
    ∃ (s : State) (x : SlotId) (j : Job), s.pins.resetActive = false ∧ s.tracker.debt = 0 ∧ s.job x = some j ∧
      s.countingJob ≠ some x :=
  ⟨⟨tracking (printing (holding job) 5) 0 [1#32], _, _, .slot0, job, rfl, rfl, .inl (by decide), rfl, by decide, rfl,
      rfl, rfl⟩,
    ⟨tracking (queued (ready (holding job)) [.hold .slot0]) 0 [1#32], _, _, .slot0, .slot0, _, job, rfl, rfl, rfl,
      by decide, rfl, rfl, rfl, rfl, rfl⟩,
    ⟨tracking (holding job) 0 [2#32], _, _, .slot0, job, rfl, rfl, rfl, by decide, rfl⟩,
    ⟨holding { job with phase := .completing }, .slot0, _, rfl, rfl, rfl, by decide⟩⟩

/-- A mark being measured, the MARK line active. -/
def measuring (s : State) (width : Nat) (previous : Option Word) (marks : List Word) : State :=
  { s with
    pins := { s.pins with mark := true }
    tracker := { s.tracker with
      qualifier := .measuring 100#32 width ⟨.activeHigh, 4, 0, 16, 0#32⟩, previous := previous, marks := marks } }

/-- Every state of the qualifier, and a polarity captured that is no longer in force. -/
theorem witness_MarkEdges_polarity :
    (∃ t : Tracker, t.qualifier = .waiting ∧ t.settings.mark.edge = .activeHigh) ∧
    (∃ (t : Tracker) (leading : Word) (width : Nat) (captured : MarkSettings),
      t.qualifier = .measuring leading width captured ∧ captured.edge = .activeLow ∧
      t.settings.mark.edge = .activeHigh ∧ t.edgeInUse = .activeLow) ∧
    ∃ t : Tracker, t.qualifier = .jammed .activeLow ∧ t.settings.mark.edge = .activeHigh ∧
      t.edgeInUse = .activeLow :=
  ⟨⟨State.reset.tracker, rfl, rfl⟩,
    ⟨{ State.reset.tracker with qualifier := .measuring 0#32 0 ⟨.activeLow, 4, 0, 16, 0#32⟩ }, _, _, _,
      rfl, rfl, rfl, rfl⟩,
    ⟨{ State.reset.tracker with qualifier := .jammed .activeLow }, rfl, rfl, rfl⟩⟩

theorem witness_MarkEdges :
    (∃ s : State, s.pins.resetActive = false ∧ s.pins.mark = s.tracker.edgeInUse.level ∧
      s.tracker.qualifier = .waiting) ∧
    (∃ (s : State) (edge : MarkEdge), s.pins.resetActive = false ∧ s.pins.mark = s.tracker.edgeInUse.level ∧
      s.tracker.qualifier = .jammed edge) ∧
    (∃ s : State, s.pins.resetActive = false ∧ s.pins.mark ≠ s.tracker.edgeInUse.level ∧
      s.tracker.qualifier = .waiting) ∧
    (∃ s : State, s.pins.resetActive = false ∧ s.pins.mark ≠ s.tracker.edgeInUse.level ∧
      s.tracker.qualifier ≠ .waiting) ∧
    (∃ (s : State) (leading : Word) (captured : MarkSettings), s.pins.resetActive = false ∧
      s.tracker.qualifier = .measuring leading 3 captured ∧ s.pins.mark = captured.edge.level ∧
      3 < captured.min) ∧
    (∃ (s : State) (leading previous : Word) (captured : MarkSettings), s.pins.resetActive = false ∧
      s.tracker.qualifier = .measuring leading 4 captured ∧ s.pins.mark = captured.edge.level ∧
      captured.min ≤ 4 ∧ s.tracker.previous = some previous ∧ (leading - previous).toNat + 1 = captured.gap) ∧
    (∃ (s : State) (leading : Word) (captured : MarkSettings), s.pins.resetActive = false ∧
      s.tracker.qualifier = .measuring leading 4 captured ∧ s.pins.mark = captured.edge.level ∧
      captured.min ≤ 4 ∧ s.tracker.previous = some 84#32 ∧ captured.gap ≤ (leading - 84#32).toNat ∧
      s.ctl.engine = .stopped) ∧
    (∃ (s : State) (leading : Word) (captured : MarkSettings), s.pins.resetActive = false ∧
      s.tracker.qualifier = .measuring leading 4 captured ∧ s.pins.mark = captured.edge.level ∧
      captured.min ≤ 4 ∧ s.tracker.previous = none ∧ s.ctl.engine ≠ .stopped ∧ s.ctl.engine ≠ .faulted ∧
      s.tracker.marks.length = 8) ∧
    ∃ (s : State) (leading : Word) (captured : MarkSettings), s.pins.resetActive = false ∧
      s.tracker.qualifier = .measuring leading 4 captured ∧ s.pins.mark = captured.edge.level ∧
      captured.min ≤ 4 ∧ s.tracker.previous = none ∧ s.ctl.engine ≠ .stopped ∧ s.ctl.engine ≠ .faulted ∧
      s.tracker.marks.length = 7 :=
  ⟨⟨{ State.reset with pins := { Pins.reset with mark := true } }, rfl, rfl, rfl⟩,
    ⟨qualifying { State.reset with pins := { Pins.reset with mark := true } } (.jammed .activeHigh), _, rfl, rfl, rfl⟩,
    ⟨State.reset, rfl, by decide, rfl⟩, ⟨qualifying State.reset (.jammed .activeHigh), rfl, by decide, by decide⟩,
    ⟨measuring State.reset 3 none [], _, _, rfl, rfl, rfl, by decide⟩,
    ⟨measuring State.reset 4 (some 85#32) [], _, _, _, rfl, rfl, rfl, by decide, rfl, by decide⟩,
    ⟨measuring State.reset 4 (some 84#32) [], _, _, rfl, rfl, rfl, by decide, rfl, by decide, rfl⟩,
    ⟨measuring (inEngine .running) 4 none (List.replicate 8 0#32), _, _, rfl, rfl, rfl, by decide, rfl, by decide,
      by decide, rfl⟩,
    ⟨measuring (inEngine .running) 4 none (List.replicate 7 0#32), _, _, rfl, rfl, rfl, by decide, rfl, by decide,
      by decide, rfl⟩⟩

/-- A row of no dots. -/
def noDots : Row := ⟨false, []⟩

theorem witness_RowTriggersTakeRows :
    (∀ shift ∈ [Shift.idle, .tickle []], ∃ (s : State) (x : SlotId) (row : Row) (items : List Item),
      s.pins.resetActive = false ∧ s.firing.print = .into ∧ s.firing.divider = some 0 ∧ s.rowShifting = false ∧
      s.queue = .row x row :: items ∧ s.job x ≠ none ∧ s.head.shift = shift) ∧
    ∃ (s : State) (position : Word) (rest : List Word) (x y z : SlotId) (row : Row) (items : List Item),
      s.pins.resetActive = false ∧ s.tracker.debt = 0 ∧ s.tracker.marks = position :: rest ∧
      reached (s.tracker.epos + 1#32) position = true ∧ s.countingJob = some x ∧ s.firing.print = .out ∧
      s.head.state = .ready ∧ s.queue = .hold y :: .row z row :: items ∧ s.rowShifting = false := by
  let s := queued (printing (holding job) 0) [.row .slot0 noDots]
  refine ⟨fun shift h => ⟨{ s with head := { s.head with shift := shift } }, .slot0, noDots, [], rfl, rfl, rfl, ?_, rfl,
    Option.some_ne_none _, rfl⟩, tracking (queued (ready (holding job)) [.hold .slot0, .row .slot0 noDots]) 0 [1#32], _,
    _, .slot0, .slot0, .slot0, noDots, [], rfl, rfl, rfl, by decide, rfl, rfl, rfl, rfl, rfl⟩
  fin_cases h <;> rfl

theorem witness_TriggersLost :
    (∃ (s : State) (x : SlotId) (j : Job), s.pins.resetActive = false ∧ s.firing.print = .into ∧
      s.firing.divider = some 0 ∧ s.rowShifting = true ∧ s.countingJob = some x ∧ s.job x = some j ∧
      j.strict = true ∧ j.fault = none) ∧
    (∃ (s : State) (x : SlotId) (j : Job), s.pins.resetActive = false ∧ s.firing.print = .into ∧
      s.firing.divider = some 0 ∧ s.rowShifting = true ∧ s.countingJob = some x ∧ s.job x = some j ∧
      j.strict = false) ∧
    (∃ s : State, s.pins.resetActive = false ∧ s.firing.print = .into ∧ s.firing.divider = some 0 ∧
      s.rowShifting = true ∧ s.countingJob = none) ∧
    (∃ (s : State) (x : SlotId) (j : Job), s.pins.resetActive = false ∧ s.firing.print = .into ∧
      s.firing.divider = some 0 ∧ s.rowShifting = false ∧ s.queue = [] ∧ s.buildingPrint = true ∧
      s.countingJob = some x ∧ s.job x = some j ∧ j.strict = true ∧ j.fault = none) ∧
    (∃ (s : State) (x : SlotId) (j : Job), s.pins.resetActive = false ∧ s.firing.print = .into ∧
      s.firing.divider = some 0 ∧ s.rowShifting = false ∧ s.queue = [] ∧ s.buildingPrint = true ∧
      s.countingJob = some x ∧ s.job x = some j ∧ j.fault ≠ none) ∧
    (∃ s : State, s.pins.resetActive = false ∧ s.firing.print = .into ∧ s.firing.divider = some 0 ∧
      s.rowShifting = false ∧ s.queue = [] ∧ s.buildingPrint = true ∧ s.countingJob = none) ∧
    ∃ s : State, s.pins.resetActive = false ∧ s.firing.print = .into ∧ s.firing.divider = some 0 ∧
      s.rowShifting = false ∧ s.queue = [] ∧ s.buildingPrint = false :=
  let building (j : Job) : State :=
    { printing (holding j) 0 with builder := { Builder.reset with state := .fetching, job := some .slot0 } }
  ⟨⟨shiftingRow (printing (holding job) 0), .slot0, job, rfl, rfl, rfl, rfl, rfl, rfl, rfl, rfl⟩,
    ⟨shiftingRow (printing (holding { job with strict := false }) 0), .slot0, _, rfl, rfl, rfl, rfl, rfl, rfl, rfl⟩,
    ⟨shiftingRow (printing State.reset 0), rfl, rfl, rfl, rfl, rfl⟩,
    ⟨building job, .slot0, job, rfl, rfl, rfl, rfl, rfl, rfl, rfl, rfl, rfl, rfl⟩,
    ⟨building { job with fault := some (.halted, 0) }, .slot0, _, rfl, rfl, rfl, rfl, rfl, rfl, rfl, rfl, by decide⟩,
    ⟨building { job with phase := .completing }, rfl, rfl, rfl, rfl, rfl, rfl, rfl⟩,
    ⟨printing State.reset 0, rfl, rfl, rfl, rfl, rfl, rfl⟩⟩

theorem witness_TrimCycle : (∃ trim, trim ≤ 15 ∧ ∃ f : Firing, f.pitchTrim = trim) ∧ ∃ k, 1 ≤ k ∧ k ≤ 16 ∧ k = 16 :=
  ⟨⟨15, le_refl _, ⟨{ Firing.reset with pitchTrim := 15 }, rfl⟩⟩, ⟨16, by decide, by decide, rfl⟩⟩

theorem witness_FreeStart :
    (∃ (s : State) (x : SlotId) (row : Row) (items : List Item), s.pins.resetActive = false ∧
      s.queue = .row x row :: items ∧ s.firing.print = .out ∧ s.head.state = .ready ∧ s.rowShifting = false) ∧
    (∃ s : State, s.pins.resetActive = false ∧ ∀ x row items, s.queue ≠ .row x row :: items) ∧
    (∃ s : State, s.pins.resetActive = false ∧ s.firing.print = .into) ∧
    (∃ s : State, s.pins.resetActive = false ∧ s.head.state ≠ .ready) ∧
    ∃ s : State, s.pins.resetActive = false ∧ s.rowShifting = true :=
  ⟨⟨queued (ready (holding job)) [.row .slot0 noDots], .slot0, noDots, [], rfl, rfl, rfl, rfl, rfl⟩,
    ⟨State.reset, rfl, by simp [State.reset, State.afterReset]⟩, ⟨printing State.reset 0, rfl, rfl⟩,
    ⟨State.reset, rfl, by decide⟩, ⟨shiftingRow State.reset, rfl, rfl⟩⟩

theorem witness_HeadItemsTaken :
    (∃ s : State, s.queue = [.swap .slot0]) ∧ (∃ s : State, s.queue = [.setup .slot0]) ∧
    (∃ s : State, s.queue = [.hold .slot0] ∧ s.firing.print = .into) ∧
    ∃ s : State, s.queue = [.finish .slot0] ∧ s.shifting .slot0 = false :=
  ⟨⟨queued State.reset _, rfl⟩, ⟨queued State.reset _, rfl⟩, ⟨queued (printing State.reset 0) _, rfl, rfl⟩,
    ⟨queued State.reset _, rfl, rfl⟩⟩

/-- A setup block in range. -/
def params : SetupParams := ⟨8, 0, 0#32, 0, 4, 0, 16, 0, 200, 0, 1000, 4, 0xFFFF#16, 500, 2, 15, 1000, 0#32⟩

theorem test_params_in_range : params.inRange = true := by decide

theorem witness_SetupApplied :
    (∃ s : State, s.staging = .block params ∧ s.head.state = .ready ∧ params.reverseLimit < s.tracker.debt) ∧
    ∃ s : State, s.staging = .blockAndMap params [] ∧ s.head.state ≠ .ready :=
  ⟨⟨{ tracking (ready State.reset) 1 [] with staging := .block params }, rfl, rfl, by decide⟩,
    ⟨{ State.reset with staging := .blockAndMap params [] }, rfl, by decide⟩⟩

theorem witness_HeadLoss :
    (∃ s : State, s.pins.resetActive = false ∧ s.pins.headPresent = false) ∧
    (∃ s : State, s.pins.resetActive = false ∧ s.pins.headPresent = true ∧ s.head.state = .off) ∧
    (∃ s : State, s.pins.resetActive = false ∧ s.pins.headPresent = true ∧ s.head.state = .warming ∧
      s.rowShifting = false) ∧
    (∃ s : State, s.pins.resetActive = false ∧ s.pins.headPresent = true ∧ s.head.state = .ready ∧
      s.firing.print = .out ∧ s.rowShifting = false ∧ ∃ x, s.queue = [.finish x]) ∧
    (∃ s : State, s.pins.resetActive = false ∧ s.pins.headPresent = true ∧ s.head.state = .ready ∧
      s.firing.print = .into ∧ s.rowShifting = false ∧ s.countingJob = none) ∧
    (∀ j ∈ [job, { builtJob with fault := some (.cancelled, 0) }], ∃ (s : State) (x : SlotId),
      s.pins.resetActive = false ∧ s.pins.headPresent = true ∧ s.head.state = .ready ∧ s.rowShifting = true ∧
      s.countingJob = some x ∧ s.job x = some j ∧ s.queue = [.row x noDots]) ∧
    ∃ (s : State) (x : SlotId) (j : Job), s.pins.resetActive = false ∧ s.pins.headPresent = true ∧
      s.head.state = .ready ∧ s.firing.print = .into ∧ s.rowShifting = true ∧ s.countingJob = some x ∧
      s.job x = some j ∧ j.fault = none ∧ s.queue = [.hold x] := by
  let absent : State := { State.reset with pins := { Pins.reset with headPresent := false } }
  let warming : State :=
    { State.reset with head := { HeadLink.reset with state := .warming, warmupTimer := .running 500 } }
  refine ⟨⟨absent, rfl, rfl⟩, ⟨State.reset, rfl, rfl, rfl⟩, ⟨warming, rfl, rfl, rfl, rfl⟩,
    ⟨queued (ready (holding builtJob)) [.finish .slot0], rfl, rfl, rfl, rfl, rfl, .slot0, rfl⟩,
    ⟨printing (inEngine .running) 5, rfl, rfl, rfl, rfl, rfl, rfl⟩,
    fun j h =>
      ⟨shiftingRow (queued (ready (holding j)) [.row .slot0 noDots]), .slot0, rfl, rfl, rfl, rfl, ?_, rfl, rfl⟩,
    ⟨shiftingRow (queued (printing (holding job) 5) [.hold .slot0]), .slot0, job, rfl, rfl, rfl, rfl, rfl, rfl, rfl,
      rfl, rfl⟩⟩
  fin_cases h <;> rfl

/-- An END waits at the head for the row that a loss of the head aborts, with each kind of item behind it. -/
theorem witness_HeadLoss_end :
    (∃ (s : State) (x : SlotId) (j : Job), s.pins.resetActive = false ∧ s.pins.headPresent = true ∧
      s.head.state = .ready ∧ s.queue = [.finish x] ∧ s.shifting x = true ∧ s.job x = some j ∧
      s.job (otherSlot x) = none) ∧
    ∀ item ∈ [Item.row .slot1 noDots, .hold .slot1], ∃ (s : State) (j k : Job), s.pins.resetActive = false ∧
      s.pins.headPresent = true ∧ s.head.state = .ready ∧ s.queue = [.finish .slot0, item] ∧
      s.shifting .slot0 = true ∧ s.job .slot0 = some j ∧ s.job (otherSlot .slot0) = some k ∧ k.phase ≠ .completing ∧
      k.fault = none :=
  ⟨⟨shiftingRow (queued (ready (holding builtJob)) [.finish .slot0]), .slot0, _, rfl, rfl, rfl, rfl, rfl, rfl, rfl⟩,
    fun item _ => ⟨shiftingRow (queued (ready (holdingBoth builtJob job)) [.finish .slot0, item]), _, _, rfl, rfl, rfl,
      rfl, rfl, rfl, rfl, by decide, rfl⟩⟩

/-- The head LOST and absent, with a warm-up time. -/
def lost (warmupTime : Nat) : State :=
  { inEngine .running with
    pins := { Pins.reset with headPresent := false }
    head := { HeadLink.reset with state := .lost, settings := { HeadSettings.reset with warmupTime := warmupTime } } }

/-- The builder on a print job, on a setup job, and with none. -/
theorem test_building_print :
    (fetching .entryRead .entry).buildingPrint = true ∧
    { fetching .setupBlockRead .setupBlock with
      slots := ⟨some { job with kind := 2#2 }, none, .slot0⟩ }.buildingPrint = false ∧
    (holding job).buildingPrint = false := by decide

theorem test_hpwr :
    State.reset.hpwr = false ∧ (lost 0).hpwr = true ∧ (ready State.reset).hpwr = true ∧
    { State.reset with head := { HeadLink.reset with state := .warming } }.hpwr = true := by decide

theorem witness_HeadReturnsAndWarms :
    (∃ s : State, s.pins.resetActive = false ∧ s.pins.headPresent = false ∧ s.head.state = .lost ∧
      s.head.settings.warmupTime ≠ 0) ∧
    (∃ s : State, s.pins.resetActive = false ∧ s.pins.headPresent = false ∧ s.head.state = .lost ∧
      s.head.settings.warmupTime = 0) ∧
    (∃ s : State, s.pins.resetActive = false ∧ s.pins.headPresent = false ∧ s.head.state ≠ .lost) ∧
    (∃ s : State, s.pins.resetActive = false ∧ s.pins.headPresent = true) ∧
    (∃ s : State, s.pins.resetActive = false ∧ s.head.state = .warming ∧ s.head.warmupTimer ≠ .stopped) ∧
    ∃ s : State, s.pins.resetActive = false ∧ s.head.state ≠ .warming ∧ s.head.warmupTimer = .stopped :=
  ⟨⟨lost 500, rfl, rfl, rfl, by decide⟩, ⟨lost 0, rfl, rfl, rfl, rfl⟩,
    ⟨{ State.reset with pins := { Pins.reset with headPresent := false } }, rfl, rfl, by decide⟩, ⟨State.reset, rfl, rfl⟩,
    ⟨{ State.reset with head := { HeadLink.reset with state := .warming, warmupTimer := .running 500 } }, rfl, rfl,
      by decide⟩, ⟨State.reset, rfl, by decide, rfl⟩⟩

theorem witness_FirePulse :
    (∃ (s : State) (codes : List (BitVec 2)) (x : SlotId) (substitutions lostDots : Nat),
      s.pins.resetActive = false ∧ s.head.shift = .row codes x substitutions lostDots) ∧
    ∃ s : State, s.pins.resetActive = false ∧ s.rowShifting = false :=
  ⟨⟨shiftingRow (ready (holding job)), _, _, _, _, rfl, rfl⟩, ⟨State.reset, rfl, rfl⟩⟩

/-- Tickle active, with a shift. -/
def tickling (shift : Shift) : State :=
  { ready State.reset with head := { HeadLink.reset with
      state := .ready, tickleActive := true, periodTimer := .running 1000, periodCount := 7, shift := shift } }

theorem witness_Tickle :
    (∃ s : State, s.pins.resetActive = false ∧ s.head.idleTimer ≠ .stopped ∧ s.head.state = .ready) ∧
    (∃ s : State, s.pins.resetActive = false ∧ s.head.idleTimer = .stopped) ∧
    (∃ s : State, s.pins.resetActive = false ∧ s.head.state ≠ .ready) ∧
    (∃ s : State, s.pins.resetActive = false ∧ s.head.periodTimer ≠ .stopped ∧ s.head.tickleActive = true ∧
      s.head.periodCount = 7) ∧
    (∃ s : State, s.pins.resetActive = false ∧ s.head.periodTimer = .stopped ∧ s.head.tickleActive = false) ∧
    (∃ (s : State) (pattern : List Bool), s.pins.resetActive = false ∧ s.head.shift = .tickle pattern) ∧
    (∃ s : State, s.pins.resetActive = false ∧ ∀ pattern, s.head.shift ≠ .tickle pattern) ∧
    ∃ (s : State) (state : NozzleState), s.pins.resetActive = false ∧ s.mapper.map[639]? = some state :=
  ⟨⟨{ State.reset with head := { headReadyIdle with state := .ready } }, rfl, by decide, rfl⟩, ⟨State.reset, rfl, rfl⟩,
    ⟨State.reset, rfl, by decide⟩, ⟨tickling .idle, rfl, by decide, rfl, rfl⟩, ⟨State.reset, rfl, rfl, rfl⟩,
    ⟨tickling (.tickle [true]), _, rfl, rfl⟩, ⟨State.reset, rfl, by simp [State.reset, State.afterReset, HeadLink.reset]⟩,
    ⟨State.reset, .good, rfl, List.getElem?_replicate_of_lt (by decide)⟩⟩

theorem witness_LineData :
    (∃ codes : List (BitVec 2), codes.length = 640 ∧ codes[638]? = some 0#2 ∧ codes[639]? = some 0#2) ∧
    (∃ pattern : List Bool, pattern.length = 640 ∧ pattern[0]? = some false ∧ pattern[1]? = some false) ∧
    ∃ s : State, s.head.shift = .idle :=
  ⟨⟨List.replicate 640 0#2, List.length_replicate, List.getElem?_replicate_of_lt (by decide),
      List.getElem?_replicate_of_lt (by decide)⟩,
    ⟨List.replicate 640 false, List.length_replicate, List.getElem?_replicate_of_lt (by decide),
      List.getElem?_replicate_of_lt (by decide)⟩, State.reset, rfl⟩

theorem witness_BlankRowFiresNothing : ∃ row : Row, row.blank = true := ⟨Row.ofBlank, rfl⟩

theorem witness_PrimaryCodes :
    (∃ m : Mapper, m.active = .a) ∧ (∃ m : Mapper, m.active = .b) ∧
    (∃ (bank : List DropEntry) (e : DropEntry), bank[19]? = some e) ∧
    (∃ d : Dot, d.overlay ≠ 0#2) ∧ (∃ d : Dot, d.overlay = 0#2 ∧ d.covered = true) ∧
    (∃ d : Dot, d.overlay = 0#2 ∧ d.covered = false) ∧
    ∃ (m : Mapper) (dots : List Dot) (n : Nat) (state : NozzleState) (d : Dot),
      m.map[n]? = some state ∧ dots[n]? = some d :=
  ⟨⟨Mapper.reset, rfl⟩, ⟨{ Mapper.reset with active := .b }, rfl⟩, ⟨Mapper.reset.bankA, _, rfl⟩,
    ⟨⟨0#4, 3#2, false⟩, by decide⟩, ⟨⟨0#4, 0#2, true⟩, rfl, rfl⟩, ⟨Dot.blank, rfl, rfl⟩,
    ⟨{ Mapper.reset with map := tableMap }, tableDots, 9, _, _, rfl, rfl⟩⟩

theorem witness_SubstitutionPass :
    (∃ (map : List NozzleState) (r : RowCodes) (n : Nat),
      n ≠ 0 ∧ map[n - 1]? = some .good ∧ r.codes[n - 1]? = some 0#2) ∧
    (∃ (map : List NozzleState) (r : RowCodes) (n : Nat),
      n = 0 ∧ map[n + 1]? = some .good ∧ r.codes[n + 1]? = some 0#2) ∧
    (∃ (map : List NozzleState) (r : RowCodes) (n : Nat),
      n ≠ 0 ∧ map[n - 1]? = some .weak ∧ map[n + 1]? = none ∧ r.codes[n - 1]? = some 0#2) ∧
    ∃ (m : Mapper) (row : Row) (d : Dot), row.blank = false ∧ m.map[5]? = some .out ∧ m.map[4]? = some .weak ∧
      m.map[0]? = some .good ∧ row.dots[0]? = some d ∧ (m.entryFor d).good ≠ 0#2 :=
  ⟨⟨tableMap, ⟨[0#2], 0, 0⟩, 1, by decide, rfl, rfl⟩, ⟨[.out, .good], ⟨[0#2, 0#2], 0, 0⟩, 0, rfl, rfl, rfl⟩,
    ⟨[.weak, .out], ⟨[0#2, 0#2], 0, 0⟩, 1, by decide, rfl, rfl, rfl⟩,
    ⟨{ Mapper.reset with map := tableMap }, ⟨false, tableDots⟩, ⟨4#4, 0#2, false⟩, rfl, rfl, rfl, rfl, rfl, by decide⟩⟩

theorem witness_PixelBits : ∃ bit depth : Nat, bit < depth ∧ bit = 3 := ⟨3, 4, by decide, rfl⟩

/-- An image of two rows. -/
def twoRows : ImageFields := ⟨0#32, 4, 0, 0, 2, 0, 640, false, false⟩

theorem witness_ItemEmitted :
    (∃ (s : State) (item : Item) (row : Row) (j : Job), s.queue.length = 7 ∧ item = .row item.slot row ∧
      s.job item.slot = some j) ∧
    (∀ task : BuildTask, ∃ (s : State) (x : SlotId) (j : Job), s.queue.length < 8 ∧ s.builder.task = task ∧
      s.builder.job = some x ∧ s.job x = some j) ∧
    (∃ (s : State) (f : ImageFields), s.queue.length < 8 ∧ s.builder.task = .image f none 0 ∧ 0 + 1 < f.count) ∧
    (∃ (s : State) (f : ImageFields), s.queue.length < 8 ∧ s.builder.task = .image f none 1 ∧ f.count ≤ 1 + 1) ∧
    ∃ s : State, 8 ≤ s.queue.length :=
  ⟨⟨queued (holding job) (List.replicate 7 (.hold .slot0)), .row .slot0 noDots, noDots, job, rfl, rfl, rfl⟩,
    fun task => ⟨walkingAt task 0 [] [], .slot0, job, Nat.zero_lt_succ 7, rfl, rfl, rfl⟩,
    ⟨walkingAt (.image twoRows none 0) 0 [] [], twoRows, by decide, rfl, by decide⟩,
    ⟨walkingAt (.image twoRows none 1) 0 [] [], twoRows, by decide, rfl, by decide⟩,
    ⟨queued (holding job) (List.replicate 8 (.hold .slot0)), by decide⟩⟩

/-- The builder in WALKING, with any task, before, at and past the last of its job's three entries. -/
theorem witness_ItemEmitted_walk :
    (∀ (task : BuildTask) (index : Nat), ∃ (s : State) (x : SlotId) (j : Job), s.tryHead = none ∧ s.tryDivider = none ∧
      s.builder.state = .walking ∧ s.builder.job = some x ∧ s.job x = some j ∧ s.builder.task = task ∧
      s.builder.index = index ∧ j.entries = 3 ∧ s.builder.stack = [] ∧ s.queue = []) ∧
    (∃ (s : State) (x : SlotId) (j : Job) (c : RepeatContext) (below : List RepeatContext), s.tryHead = none ∧
      s.tryDivider = none ∧ s.builder.state = .walking ∧ s.builder.job = some x ∧ s.job x = some j ∧
      s.builder.task = .entry ∧ j.entries ≤ s.builder.index ∧ s.builder.stack = c :: below) ∧
    ∀ (task : BuildTask) (item : Item), ∃ (s : State) (x : SlotId) (j : Job), s.tryHead = none ∧ s.tryDivider = none ∧
      s.builder.state = .walking ∧ s.builder.job = some x ∧ s.job x = some j ∧ s.builder.task = task ∧ item ∈ s.queue :=
  ⟨fun task index => ⟨walkingAt task index [] [], .slot0, job, rfl, rfl, rfl, rfl, rfl, rfl, rfl, rfl, rfl, rfl⟩,
    ⟨walkingAt .entry 3 [⟨0, 3, some 2, 1, true⟩] [], .slot0, job, _, _, rfl, rfl, rfl, rfl, rfl, rfl, Nat.le_refl 3,
      rfl⟩,
    fun task item => ⟨walkingAt task 0 [] [.hold .slot0, item], .slot0, job, rfl, rfl, rfl, rfl, rfl, rfl,
      List.mem_cons_of_mem _ List.mem_cons_self⟩⟩

/-! #### The builder -/

/-- The same, at a walk index with a repeat stack. -/
def fetchingAt (kind : TxKind) (task : BuildTask) (index : Nat) (stack : List RepeatContext) : State :=
  { fetching kind task with
    builder := { (fetching kind task).builder with index := index, stack := stack } }

theorem readEnds_fetching (kind : TxKind) (task : BuildTask) (index : Nat) (stack : List RepeatContext) :
    (fetchingAt kind task index stack).readEnds kind := ⟨⟨rfl, _, rfl, rfl, rfl⟩, rfl, rfl⟩

theorem witness_Conditions :
    (∃ s : State, s.builder.stack = []) ∧ ∃ (s : State) (c : RepeatContext), s.builder.stack = [c] ∧ c.count = some c.pass :=
  ⟨⟨State.reset, rfl⟩, fetchingAt .entryRead .entry 1 [⟨0, 2, some 3, 3, true⟩], _, rfl, rfl⟩

/-- A legal IMAGE of one row that covers every nozzle, with flags or condition as given in the low 16 bits. -/
def imageWords (low : Word) : List Word := [0x00010000#32 ||| low, 0x1000#32, 0x00010004#32, 0x02800000#32]

/-- What a walk of an entry of some words meets. -/
def EntryMet (words : List Word) (index : Nat) (stack : List RepeatContext) (p : State → Entry → Prop) : Prop :=
  ∃ s : State, s.readEnds .entryRead ∧ s.builder.task = .entry ∧ s.builder.index = index ∧ s.builder.stack = stack ∧
    p s (Entry.ofWords words)

theorem entryMet {words : List Word} {index : Nat} {stack : List RepeatContext} {p : State → Entry → Prop}
    (h : p (fetchingAt .entryRead .entry index stack) (Entry.ofWords words)) : EntryMet words index stack p :=
  ⟨_, readEnds_fetching _ _ _ _, rfl, rfl, rfl, h⟩

/-- An image at the ends of every range of TABLE 1-2: legal. -/
theorem test_image_ranges_met :
    (⟨0xFFFFFFFC#32, 4, 1, 31, 1, 639, 1, false, false⟩ : ImageFields).legal = true ∧
    (⟨0#32, 65532, 2, 0, 65535, 0, 640, true, true⟩ : ImageFields).legal = true ∧
    (⟨4#32, 8, 4, 0, 2, 320, 320, false, false⟩ : ImageFields).legal = true := by decide

/-- One step beyond the end of each range of TABLE 1-2: illegal. -/
theorem test_image_ranges_left :
    (⟨2#32, 4, 1, 0, 1, 0, 1, false, false⟩ : ImageFields).legal = false ∧
    (∀ stride ∈ [0, 6, 65535, 65536], (⟨0#32, stride, 1, 0, 1, 0, 1, false, false⟩ : ImageFields).legal = false) ∧
    (∀ depth ∈ [0, 3, 5, 7], (⟨0#32, 4, depth, 0, 1, 0, 1, false, false⟩ : ImageFields).legal = false) ∧
    (⟨0#32, 4, 1, 32, 1, 0, 1, false, false⟩ : ImageFields).legal = false ∧
    (∀ count ∈ [0, 65536], (⟨0#32, 4, 1, 0, count, 0, 1, false, false⟩ : ImageFields).legal = false) ∧
    (∀ width ∈ [0, 641], (⟨0#32, 4, 1, 0, 1, 0, width, false, false⟩ : ImageFields).legal = false) ∧
    (⟨0#32, 4, 1, 0, 1, 639, 2, false, false⟩ : ImageFields).legal = false ∧
    (⟨0#32, 4, 1, 0, 1, 640, 1, false, false⟩ : ImageFields).legal = false := by decide

/-- An overlay at the ends of every range of TABLE 1-3: legal. -/
theorem test_overlay_ranges_met :
    (⟨0xFFFFFFFC#32, 4, 1, 31, 639, 1, 65534, 1⟩ : OverlayFields).legal 65535 = true ∧
    (⟨0#32, 65532, 2, 0, 0, 640, 0, 40⟩ : OverlayFields).legal 40 = true ∧
    (⟨4#32, 8, 2, 0, 320, 320, 39, 1⟩ : OverlayFields).legal 40 = true := by decide

/-- One step beyond the end of each range of TABLE 1-3: illegal. -/
theorem test_overlay_ranges_left :
    (⟨2#32, 4, 1, 0, 0, 1, 0, 1⟩ : OverlayFields).legal 1 = false ∧
    (∀ stride ∈ [0, 6, 65535, 65536], (⟨0#32, stride, 1, 0, 0, 1, 0, 1⟩ : OverlayFields).legal 1 = false) ∧
    (∀ depth ∈ [0, 3, 4], (⟨0#32, 4, depth, 0, 0, 1, 0, 1⟩ : OverlayFields).legal 1 = false) ∧
    (⟨0#32, 4, 1, 32, 0, 1, 0, 1⟩ : OverlayFields).legal 1 = false ∧
    (∀ width ∈ [0, 641], (⟨0#32, 4, 1, 0, 0, width, 0, 1⟩ : OverlayFields).legal 1 = false) ∧
    (⟨0#32, 4, 1, 0, 639, 2, 0, 1⟩ : OverlayFields).legal 1 = false ∧
    (⟨0#32, 4, 1, 0, 640, 1, 0, 1⟩ : OverlayFields).legal 1 = false ∧
    (⟨0#32, 4, 1, 0, 0, 1, 65535, 1⟩ : OverlayFields).legal 65536 = false ∧
    (⟨0#32, 4, 1, 0, 0, 1, 0, 0⟩ : OverlayFields).legal 1 = false ∧
    (⟨0#32, 4, 1, 0, 0, 1, 39, 2⟩ : OverlayFields).legal 40 = false := by decide

/-- The sixteen values of KIND (TABLE 1-1), with every other bit of word 0 set. -/
theorem test_kinds :
    ((List.range 16).map fun k => (⟨0xFFFFFFF0#32 + BitVec.ofNat 32 k, 0#32, 0#32, 0#32, 0#32⟩ : Entry).kind) =
      [none, some .image, some .overlayExt, some .blank, some .waitMark, some .table, some .repeatOpen,
        some .repeatClose, some .repeatExit, some .finish, none, none, none, none, none, none] := by decide

/-- A REPEAT_OPEN with the unused bits of word 1 set: FOREVER, CLOSE and COUNT. -/
theorem test_repeat_open_word :
    let e := Entry.ofWords [0xFFFF0106#32, 0xFFFFFF3F#32, 1#32, 2#32, 3#32, 4#32, 5#32, 6#32]
    e.kind = some .repeatOpen ∧ e.cond = .always ∧ e.forever = true ∧ e.ext = false ∧ e.count = 65535 ∧
      e.closeIndex = 63 ∧ e.src = 0xFFFFFF3F#32 ∧ (e.w2, e.w3, e.w4) = (1#32, 2#32, 3#32) := by decide

theorem witness_EntriesWalked_image :
    EntryMet [0#32] 0 [] (fun _ e => e.kind = none) ∧ EntryMet [2#32] 0 [] (fun _ e => e.kind = some .overlayExt) ∧
    EntryMet (imageWords 0x21#32) 0 []
      (fun s e => e.kind = some .image ∧ e.ext = false ∧ ¬s.condition e.cond false = true) ∧
    EntryMet [1#32] 0 [] (fun s e => e.kind = some .image ∧ e.ext = false ∧ s.condition e.cond false = true ∧
      e.imageFields.legal = false) ∧
    EntryMet (imageWords 1#32) 0 [] (fun s e => e.kind = some .image ∧ e.ext = false ∧
      s.condition e.cond false = true ∧ e.imageFields.legal = true) ∧
    EntryMet (imageWords 0x201#32) 2 [] (fun s e => e.kind = some .image ∧ e.ext = true ∧
      s.builder.index + 1 = s.entries) ∧
    EntryMet (imageWords 0x201#32) 1 [] (fun s e => e.kind = some .image ∧ e.ext = true ∧
      s.builder.index + 1 ≠ s.entries) :=
  ⟨entryMet rfl, entryMet rfl, entryMet (by decide), entryMet (by decide), entryMet (by decide), entryMet (by decide),
    entryMet (by decide)⟩

theorem witness_EntriesWalked_others :
    EntryMet [0x00010023#32] 0 [] (fun s e => e.kind = some .blank ∧ ¬s.condition e.cond false = true) ∧
    EntryMet [0x00000003#32] 0 [] (fun s e => e.kind = some .blank ∧ s.condition e.cond false = true ∧ e.count = 0) ∧
    EntryMet [0x00010003#32] 0 [] (fun s e => e.kind = some .blank ∧ s.condition e.cond false = true ∧ e.count ≠ 0) ∧
    EntryMet [0x64#32] 0 [] (fun s e => e.kind = some .waitMark ∧ ¬s.condition e.cond false = true) ∧
    EntryMet [0x64#32] 0 [] (fun s e => e.kind = some .waitMark ∧ s.condition e.cond true = true) ∧
    EntryMet [0x25#32, 4#32] 0 [] (fun s e => e.kind = some .table ∧ ¬s.condition e.cond false = true) ∧
    EntryMet [5#32, 3#32] 0 [] (fun s e => e.kind = some .table ∧ s.condition e.cond false = true ∧
      e.src.toNat % 4 ≠ 0) ∧
    EntryMet [5#32, 4#32] 0 [] (fun s e => e.kind = some .table ∧ s.condition e.cond false = true ∧
      e.src.toNat % 4 = 0) ∧
    EntryMet [0x29#32] 0 [] (fun s e => e.kind = some .finish ∧ ¬s.condition e.cond false = true) ∧
    EntryMet [9#32] 0 [] (fun s e => e.kind = some .finish ∧ s.condition e.cond false = true) ∧
    EntryMet [9#32] 1 [⟨0, 2, none, 1, true⟩] (fun s e => e.kind = some .finish ∧ s.condition e.cond false = true) :=
  ⟨entryMet (by decide), entryMet (by decide), entryMet (by decide), entryMet (by decide), entryMet (by decide),
    entryMet (by decide), entryMet (by decide), entryMet (by decide), entryMet (by decide), entryMet (by decide),
    entryMet (by decide)⟩

/-- A legal OVERLAY_EXT of one row that covers every nozzle. -/
def overlayWords : List Word := [2#32, 0x2000#32, 0x00010004#32, 0x02800000#32, 0x00010000#32]

/-- What the slot behind an IMAGE with EXT meets. -/
def PairMet (image words : List Word) (p : State → Entry → Entry → Prop) : Prop :=
  ∃ s : State, s.readEnds .entryRead ∧ s.builder.task = .extension (Entry.ofWords image) ∧
    p s (Entry.ofWords image) (Entry.ofWords words)

theorem pairMet {image words : List Word} {p : State → Entry → Entry → Prop}
    (h : p (fetchingAt .entryRead (.extension (Entry.ofWords image)) 0 []) (Entry.ofWords image)
      (Entry.ofWords words)) : PairMet image words p :=
  ⟨_, readEnds_fetching _ _ _ _, rfl, h⟩

theorem witness_EntriesWalked_pair :
    PairMet (imageWords 0x201#32) [9#32] (fun _ _ x => x.kind ≠ some .overlayExt) ∧
    PairMet (imageWords 0x201#32) [0x12#32] (fun _ _ x => x.kind = some .overlayExt ∧ x.cond ≠ .always) ∧
    PairMet (imageWords 0x221#32) overlayWords (fun s i x => x.kind = some .overlayExt ∧ x.cond = .always ∧
      s.condition i.cond false = false) ∧
    PairMet [0x201#32] overlayWords (fun s i x => x.kind = some .overlayExt ∧ x.cond = .always ∧
      s.condition i.cond false = true ∧ i.imageFields.legal = false) ∧
    PairMet (imageWords 0x201#32) [2#32] (fun s i x => x.kind = some .overlayExt ∧ x.cond = .always ∧
      s.condition i.cond false = true ∧ i.imageFields.legal = true ∧ x.overlayFields.legal i.count = false) ∧
    PairMet (imageWords 0x201#32) overlayWords (fun s i x => x.kind = some .overlayExt ∧ x.cond = .always ∧
      s.condition i.cond false = true ∧ i.imageFields.legal = true ∧ x.overlayFields.legal i.count = true) :=
  ⟨pairMet (by decide), pairMet (by decide), pairMet (by decide), pairMet (by decide), pairMet (by decide),
    pairMet (by decide)⟩

theorem witness_RepeatsWalked_open :
    EntryMet [0x10016#32, 2#32] 0 [] (fun _ e => e.kind = some .repeatOpen ∧ e.cond ≠ .always) ∧
    EntryMet [0x10006#32, 3#32] 0 [] (fun s e => e.kind = some .repeatOpen ∧ e.cond = .always ∧
      ¬(s.builder.index < e.closeIndex ∧ e.closeIndex < s.entries)) ∧
    EntryMet [0x10006#32, 2#32] 1 [] (fun s e => e.kind = some .repeatOpen ∧ e.cond = .always ∧
      s.builder.index < e.closeIndex ∧ e.closeIndex < s.entries) :=
  ⟨entryMet (by decide), entryMet (by decide), entryMet (by decide)⟩

/-- What the slot at the CLOSE of a REPEAT_OPEN meets. -/
def CloseSlotMet (opened words : List Word) (stack : List RepeatContext) (p : Entry → Entry → Prop) : Prop :=
  ∃ s : State, s.readEnds .entryRead ∧ s.builder.task = .closeSlot (Entry.ofWords opened) ∧
    s.builder.stack = stack ∧ p (Entry.ofWords opened) (Entry.ofWords words)

theorem closeSlotMet {opened words : List Word} {stack : List RepeatContext} {p : Entry → Entry → Prop}
    (h : p (Entry.ofWords opened) (Entry.ofWords words)) : CloseSlotMet opened words stack p :=
  ⟨fetchingAt .entryRead (.closeSlot (Entry.ofWords opened)) 0 stack, readEnds_fetching _ _ _ _, rfl, rfl, h⟩

theorem witness_RepeatsWalked_closeSlot :
    CloseSlotMet [0x10006#32, 2#32] [9#32] [] (fun _ e => e.kind ≠ some .repeatClose) ∧
    CloseSlotMet [0x10006#32, 2#32] [7#32] [⟨0, 2, none, 1, true⟩]
      (fun o e => e.kind = some .repeatClose ∧ 2 ≤ o.closeIndex) ∧
    CloseSlotMet [0x00006#32, 2#32] [7#32] [⟨0, 3, none, 1, true⟩]
      (fun o e => e.kind = some .repeatClose ∧ o.closeIndex < 3 ∧ o.count = 0 ∧ o.forever = false) ∧
    CloseSlotMet [0x10006#32, 2#32] [7#32] (List.replicate 4 ⟨0, 3, none, 1, true⟩)
      (fun o e => e.kind = some .repeatClose ∧ o.closeIndex < 3 ∧ o.count ≠ 0) ∧
    CloseSlotMet [0x00106#32, 2#32] [7#32] (List.replicate 3 ⟨0, 3, none, 1, true⟩)
      (fun o e => e.kind = some .repeatClose ∧ o.closeIndex < 3 ∧ o.forever = true) :=
  ⟨closeSlotMet (by decide), closeSlotMet (by decide), closeSlotMet (by decide), closeSlotMet (by decide),
    closeSlotMet (by decide)⟩

theorem witness_RepeatsWalked_closeAndExit :
    EntryMet [0x17#32] 2 [] (fun _ e => e.kind = some .repeatClose ∧ e.cond ≠ .always) ∧
    EntryMet [7#32] 2 [] (fun _ e => e.kind = some .repeatClose ∧ e.cond = .always) ∧
    EntryMet [7#32] 1 [⟨0, 2, none, 1, true⟩] (fun s e => e.kind = some .repeatClose ∧ e.cond = .always ∧
      2 ≠ s.builder.index) ∧
    EntryMet [7#32] 2 [⟨0, 2, none, 1, false⟩] (fun s e => e.kind = some .repeatClose ∧ e.cond = .always ∧
      2 = s.builder.index) ∧
    EntryMet [7#32] 2 [⟨0, 2, none, 4294967295, true⟩] (fun s e => e.kind = some .repeatClose ∧ e.cond = .always ∧
      2 = s.builder.index) ∧
    EntryMet [7#32] 2 [⟨0, 2, some 3, 2, true⟩] (fun s e => e.kind = some .repeatClose ∧ e.cond = .always ∧
      2 = s.builder.index) ∧
    EntryMet [7#32] 2 [⟨0, 2, some 3, 3, true⟩] (fun s e => e.kind = some .repeatClose ∧ e.cond = .always ∧
      2 = s.builder.index) ∧
    EntryMet [8#32] 0 [] (fun _ e => e.kind = some .repeatExit) ∧
    EntryMet [8#32] 1 [⟨0, 2, some 3, 3, true⟩]
      (fun s e => e.kind = some .repeatExit ∧ s.condition e.cond false = true) ∧
    EntryMet [0x18#32] 1 [⟨0, 2, some 3, 3, true⟩]
      (fun s e => e.kind = some .repeatExit ∧ s.condition e.cond false = false) :=
  ⟨entryMet (by decide), entryMet (by decide), entryMet (by decide), entryMet (by decide), entryMet (by decide),
    entryMet (by decide), entryMet (by decide), entryMet (by decide), entryMet (by decide), entryMet (by decide)⟩

/-- An image of one row, and an overlay of its row 0. -/
def imageField : ImageFields := (Entry.ofWords (imageWords 1#32)).imageFields
def overlayField : OverlayFields := (Entry.ofWords overlayWords).overlayFields

theorem witness_RowsBuilt :
    (∀ task : BuildTask, ∃ (s : State) (x : SlotId), s.tryHead = none ∧ s.tryDivider = none ∧
      s.builder.state = .walking ∧ s.builder.job = some x ∧ s.builder.task = task) ∧
    (∃ (s : State) (x : SlotId), s.readEnds .rowRead ∧ s.builder.job = some x ∧
      s.builder.task = .image imageField none 0) ∧
    (∃ (s : State) (x : SlotId), s.readEnds .rowRead ∧ s.builder.job = some x ∧
      s.builder.task = .image imageField (some overlayField) 0 ∧ overlayField.rowFirst ≤ 0 ∧
      0 < overlayField.rowFirst + overlayField.rows) ∧
    (∃ (s : State) (x : SlotId), s.readEnds .rowRead ∧ s.builder.job = some x ∧
      s.builder.task = .image imageField (some overlayField) 1 ∧
      ¬(overlayField.rowFirst ≤ 1 ∧ 1 < overlayField.rowFirst + overlayField.rows)) ∧
    (∃ (s : State) (x : SlotId), s.readEnds .overlayRead ∧ s.builder.job = some x ∧
      s.builder.task = .overlay imageField overlayField 0 []) ∧
    (∃ n, n < 640 ∧ n = 639) ∧ ∃ (dots : List Dot) (d : Dot), dots[0]? = some d :=
  ⟨fun task => ⟨walkingAt task 0 [] [], .slot0, rfl, rfl, rfl, rfl, rfl⟩,
    ⟨_, _, readEnds_fetching .rowRead _ 0 [], rfl, rfl⟩,
    ⟨_, _, readEnds_fetching .rowRead _ 0 [], rfl, rfl, by decide, by decide⟩,
    ⟨_, _, readEnds_fetching .rowRead _ 0 [], rfl, rfl, by decide⟩,
    ⟨_, _, readEnds_fetching .overlayRead _ 0 [], rfl, rfl⟩, ⟨639, by decide, rfl⟩, [Dot.blank], _, rfl⟩

theorem witness_TableLoaded :
    (∃ (s : State) (x : SlotId), s.readEnds .tableRead ∧ s.builder.job = some x) ∧ ∃ k, k < 20 ∧ k = 19 :=
  ⟨⟨_, _, readEnds_fetching .tableRead (.table 4#32) 0 [], rfl⟩, 19, by decide, rfl⟩

/-- A setup block in range with MAP_ADDRESS as given. -/
def setupWords (mapAddress : Word) : List Word :=
  [8#32, 0#32, 4#32, 0x00C80010#32, 200#32, 0x02040064#32, 0x000FFFFF#32, 0x03E80000#32, mapAddress]

theorem map_values_zero : ∀ n < 640, mapValue [] n = 0 ∧ (List.replicate 640 NozzleState.good)[n]? = some .good :=
  fun n h => ⟨by simp [mapValue, wordAt, bits], List.getElem?_replicate_of_lt h⟩

theorem witness_SetupJudgedAndStaged :
    (∃ (s : State) (words : List Word), s.readEnds .setupBlockRead ∧ (SetupParams.ofWords words).inRange = false) ∧
    (∃ (s : State) (words : List Word), s.readEnds .setupBlockRead ∧ (SetupParams.ofWords words).inRange = true ∧
      (SetupParams.ofWords words).mapAddress = 0#32) ∧
    (∃ (s : State) (words : List Word), s.readEnds .setupBlockRead ∧ (SetupParams.ofWords words).inRange = true ∧
      (SetupParams.ofWords words).mapAddress ≠ 0#32) ∧
    (∃ (s : State) (words : List Word), s.readEnds .mapRead ∧ s.builder.task = .setupMap params ∧
      ∃ n < 640, mapValue words n = 3) ∧
    ∃ (s : State) (words : List Word) (map : List NozzleState), s.readEnds .mapRead ∧
      s.builder.task = .setupMap params ∧ map.length = 640 ∧
      ∀ n < 640, (mapValue words n = 0 ∧ map[n]? = some .good) ∨ (mapValue words n = 1 ∧ map[n]? = some .weak) ∨
        (mapValue words n = 2 ∧ map[n]? = some .out) :=
  ⟨⟨_, [], readEnds_fetching _ .setupBlock 0 [], by decide⟩,
    ⟨_, setupWords 0#32, readEnds_fetching _ .setupBlock 0 [], by decide, by decide⟩,
    ⟨_, setupWords 32#32, readEnds_fetching _ .setupBlock 0 [], by decide, by decide⟩,
    ⟨_, List.replicate 40 0xC0000000#32, readEnds_fetching _ _ 0 [], rfl, 639, by decide, by decide⟩,
    ⟨_, [], List.replicate 640 .good, readEnds_fetching _ _ 0 [], rfl, List.length_replicate,
      fun n h => .inl (map_values_zero n h)⟩⟩

theorem witness_FetchErrors (kind : TxKind) (task : BuildTask) : ∃ s : State, s.readEnds kind ∧ s.builder.task = task :=
  ⟨_, readEnds_fetching kind task 0 [], rfl⟩

/-- A transaction in progress whose outcome is no longer wanted. -/
def unwanted (kind : TxKind) : State :=
  { inEngine .running with port := { Port.reset with current := some ⟨kind, 0x200#32, 1, 0#32, false⟩ } }

/-- The words an exchange that is discarded can find. -/
theorem witness_OutcomesDiscarded_words :
    (∃ word : Word, released word = false ∧ recordState word = some .ready) ∧ (∃ word : Word, released word = true) ∧
    ∃ word : Word, recordState word ≠ some .ready :=
  ⟨⟨1#32, by decide, by decide⟩, ⟨9#32, by decide⟩, 0#32, by decide⟩

theorem witness_OutcomesDiscarded (kind : TxKind) :
    ∃ (s : State) (t : Transaction), s.pins.resetActive = false ∧ s.port.current = some t ∧ t.wanted = false ∧
      t.kind = kind :=
  ⟨unwanted kind, _, rfl, rfl, rfl, rfl⟩

/-- The builder waiting on the job of slot 0, with items in the queue and a discarded read outstanding or not. -/
def waiting (state : BuilderState) (task : BuildTask) (held : Option Item) (items : List Item) (read : Option TxKind) :
    State :=
  { queued (holding job) items with
    builder := { Builder.reset with state := state, job := some .slot0, task := task, held := held }
    port := { Port.reset with current := read.map fun kind => ⟨kind, 0x100#32, 5, 0#32, false⟩ } }

theorem witness_BuilderWaitsEnd :
    (∃ s : State, s.builder.state = .waitRoom ∧ s.builder.held = some (.hold .slot0) ∧ s.queue.length = 7) ∧
    (∃ s : State, s.builder.state = .waitRoom ∧ s.builder.held = some (.hold .slot0) ∧ s.queue.length = 8) ∧
    (∀ task : BuildTask, ∃ (s : State) (j : Job), s.builder.state = .waitStage ∧ s.builder.job = some .slot0 ∧
      s.job .slot0 = some j ∧ s.builder.task = task ∧ Item.swap .slot0 ∈ s.queue ∧ Item.setup .slot0 ∈ s.queue) ∧
    (∀ task : BuildTask, ∃ (s : State) (j : Job), s.builder.state = .waitStage ∧ s.builder.job = some .slot0 ∧
      s.job .slot0 = some j ∧ s.builder.task = task ∧ s.queue = [] ∧ s.port.outstanding .builder = false) ∧
    (∀ task : BuildTask, ∃ (s : State) (j : Job), s.builder.state = .waitStage ∧ s.builder.job = some .slot0 ∧
      s.job .slot0 = some j ∧ s.builder.task = task ∧ s.queue = [] ∧ s.port.outstanding .builder = true) ∧
    ∃ s : State, s.pins.resetActive = false ∧ s.builder.state ≠ .waitRoom ∧ s.builder.state ≠ .waitStage :=
  ⟨⟨waiting .waitRoom .hold (some (.hold .slot0)) (List.replicate 7 (.swap .slot0)) none, rfl, rfl, rfl⟩,
    ⟨waiting .waitRoom .hold (some (.hold .slot0)) (List.replicate 8 (.swap .slot0)) none, rfl, rfl, rfl⟩,
    fun task => ⟨waiting .waitStage task none [.swap .slot0, .setup .slot0] none, job, rfl, rfl, rfl, rfl,
      List.mem_cons_self, List.mem_cons_of_mem _ List.mem_cons_self⟩,
    fun task => ⟨waiting .waitStage task none [] none, job, rfl, rfl, rfl, rfl, rfl, rfl⟩,
    fun task => ⟨waiting .waitStage task none [] (some .tableRead), job, rfl, rfl, rfl, rfl, rfl, rfl⟩,
    ⟨State.reset, rfl, by decide, by decide⟩⟩

/-! #### The walker and the writer -/

theorem witness_LooksBegin :
    (∃ s : State, s.pins.resetActive = false ∧ s.walker.lookOwed = true ∧ s.ctl.engine = .running ∧
      s.builder.state = .free ∧ s.slots.slot1 = none ∧ s.walker.state ≠ .looking ∧ s.writer.list = []) ∧
    (∃ s : State, s.pins.resetActive = false ∧ s.walker.lookOwed = false) ∧
    (∃ s : State, s.pins.resetActive = false ∧ s.slots.slot0 ≠ none ∧ s.slots.slot1 ≠ none) ∧
    (∃ (s : State) (record : Word), s.pins.resetActive = false ∧ WriteTask.release record ∈ s.writer.list) ∧
    (∃ s : State, s.pins.resetActive = false ∧ s.walker.pollTimer ≠ .stopped) ∧
    ∃ s : State, s.pins.resetActive = false ∧ s.walker.pollTimer = .stopped :=
  ⟨⟨{ holding builtJob with walker := { Walker.reset 0#32 with lookOwed := true } }, rfl, rfl, rfl, rfl, rfl, by decide,
      rfl⟩,
    ⟨State.reset, rfl, rfl⟩,
    ⟨{ State.reset with slots := ⟨some builtJob, some builtJob, .slot0⟩ }, rfl, by decide, by decide⟩,
    ⟨writing [.release 0x100#32] .release, _, rfl, List.mem_cons_self⟩,
    ⟨{ inEngine .running with walker := { Walker.reset 0#32 with state := .waiting, pollTimer := .running 1000 } }, rfl,
      by decide⟩, ⟨State.reset, rfl, rfl⟩⟩

theorem ends_looking (stage : LookStage) (kind : TxKind) : (looking stage kind).ends kind := ⟨rfl, _, rfl, rfl, rfl⟩

theorem witness_LookReads :
    (∃ s : State, s.ends .linkRead ∧ s.walker.stage = .link ∧ s.ctl.engine = .running ∧ s.walker.lookOwed = false) ∧
    (∃ link : Word, link ≠ 0#32 ∧ link.toNat % 32 ≠ 0) ∧ (∃ link : Word, link ≠ 0#32 ∧ link.toNat % 32 = 0) ∧
    (∃ (s : State) (linked : Word), s.ends .stateRead ∧ s.walker.stage = .state linked ∧ s.ctl.engine = .running) ∧
    (∃ (s : State) (linked : Word), s.ends .headerRead ∧ s.walker.stage = .header linked) ∧
    (released 9#32 = true ∧ recordState 2#32 = some .taken ∧ recordState 3#32 = some .done ∧
      recordState 4#32 = some .faulted ∧ recordState 6#32 = none ∧ recordState 7#32 = none) ∧
    (released 0#32 = false ∧ recordState 0#32 = some .empty) ∧ (released 1#32 = false ∧ recordState 1#32 = some .ready) ∧
    (released 5#32 = false ∧ recordState 5#32 = some .withdrawn) :=
  ⟨⟨_, ends_looking .link _, rfl, rfl, rfl⟩, ⟨16#32, by decide, by decide⟩, ⟨32#32, by decide, by decide⟩,
    ⟨_, 0x200#32, ends_looking _ _, rfl, rfl⟩, ⟨_, 0x200#32, ends_looking _ _, rfl⟩, by decide, by decide, by decide,
    by decide⟩

theorem witness_TakeExchange :
    (∃ (s : State) (linked : Word) (header : Header) (x : SlotId), s.ends .takeExchange ∧
      (∀ t, s.port.current = some t → t.address = linked) ∧ s.walker.stage = .exchange linked header ∧
      s.slots.freeSlot = some x ∧ header.valid = true ∧ header.entries = 64 ∧ s.ctl.engine ≠ .abandoning) ∧
    (∃ (s : State) (linked : Word) (header : Header) (x : SlotId), s.ends .takeExchange ∧
      (∀ t, s.port.current = some t → t.address = linked) ∧ s.walker.stage = .exchange linked header ∧
      s.slots.freeSlot = some x ∧ header.valid = false ∧ header.entries = 65) ∧
    (∃ (s : State) (linked : Word) (header : Header) (x : SlotId), s.ends .takeExchange ∧
      (∀ t, s.port.current = some t → t.address = linked) ∧ s.walker.stage = .exchange linked header ∧
      s.slots.freeSlot = some x ∧ header.valid = true ∧ s.ctl.engine = .abandoning) ∧
    (∃ h : Header, h.valid = true ∧ h.kind = 2#2) :=
  have h : ∀ entries, ∀ t, (looking (.exchange 0x200#32 ⟨1#2, entries, true, false⟩) .takeExchange).port.current = some t →
      t.address = 0x200#32 := by
    intro entries t ht
    cases Option.some.inj ht
    rfl
  ⟨⟨_, 0x200#32, ⟨1#2, 64, true, false⟩, .slot0, ends_looking _ _, h 64, rfl, rfl, by decide, rfl, by decide⟩,
    ⟨_, 0x200#32, ⟨1#2, 65, true, false⟩, .slot0, ends_looking _ _, h 65, rfl, rfl, by decide, rfl⟩,
    ⟨{ looking (.exchange 0x200#32 ⟨1#2, 1, true, false⟩) .takeExchange with ctl := (inEngine .abandoning).ctl }, 0x200#32,
      ⟨1#2, 1, true, false⟩, .slot0, ⟨rfl, _, rfl, rfl, rfl⟩, h 1, rfl, rfl, by decide, rfl⟩,
    ⟨⟨2#2, 0, false, false⟩, by decide, rfl⟩⟩

theorem witness_ChainFaultTaken :
    let t (kind : TxKind) : Transaction := ⟨kind, 0x1000#32, 1, 0#32, true⟩
    (∃ s : State, s.ctl.engine ≠ .faulted ∧ s.head.shift ≠ .idle ∧ s.port.current = none ∧
      s.port.builderReq = none ∧ s.port.walkerReq = none) ∧
    (∃ s : State, s.ctl.engine ≠ .faulted ∧ s.port.current = none ∧ s.port.builderReq = some (t .rowRead) ∧
      s.port.builderWaited = true ∧ s.port.walkerReq = some (t .takeExchange)) ∧
    (∃ s : State, s.ctl.engine ≠ .faulted ∧ s.port.current = none ∧ s.port.builderReq = some (t .rowRead) ∧
      s.port.builderWaited = false ∧ s.port.walkerReq = none) ∧
    (∃ s : State, s.ctl.engine ≠ .faulted ∧ s.port.current = none ∧ s.port.walkerReq = some (t .takeExchange) ∧
      s.port.builderReq = some (t .rowRead) ∧ s.port.builderWaited = false) ∧
    (∃ (s : State) (u : Transaction), s.ctl.engine ≠ .faulted ∧ s.port.current = some u) ∧
    ∃ s : State, s.ctl.engine = .faulted :=
  let t (kind : TxKind) : Transaction := ⟨kind, 0x1000#32, 1, 0#32, true⟩
  let running (p : Port) : State := { inEngine .running with port := p }
  ⟨⟨shiftingRow State.reset, by decide, by decide, rfl, rfl, rfl⟩,
    ⟨running ⟨none, some (t .rowRead), none, some (t .takeExchange), true⟩, by simp [running, inEngine], rfl, rfl, rfl,
      rfl⟩,
    ⟨running ⟨none, some (t .rowRead), none, none, false⟩, by simp [running, inEngine], rfl, rfl, rfl, rfl⟩,
    ⟨running ⟨none, some (t .rowRead), none, some (t .takeExchange), false⟩, by simp [running, inEngine], rfl, rfl, rfl,
      rfl⟩,
    ⟨looking .link .linkRead, _, by decide, rfl⟩, inEngine .faulted, rfl⟩

theorem witness_RecordsWritten_requests :
    (∃ s : State, s.writer.list = [] ∧ s.AtRest ∧ s.port.outstanding .writer = false) ∧
    (∃ (s : State) (record : Word) (tasks : List WriteTask), s.writer.list = .release record :: tasks ∧
      s.port.outstanding .writer = false ∧ ∃ t, s.nextWrite = some t) ∧
    ∃ s : State, s.port.outstanding .writer = true :=
  ⟨⟨State.reset, rfl, rfl, rfl⟩,
    ⟨{ State.reset with writer := ⟨[.release 0x100#32], 0⟩ }, _, _, rfl, rfl, _, rfl⟩,
    ⟨writing [.release 0x100#32] .release, rfl⟩⟩

theorem witness_RecordsWritten :
    (∃ (s : State) (t : Transaction), s.pins.resetActive = false ∧ s.port.current = some t ∧ t.wanted = true ∧
      t.kind = .resultWrite) ∧
    (∃ (s : State) (t : Transaction) (x : SlotId) (epos : Word) (tasks : List WriteTask) (j : Job),
      s.pins.resetActive = false ∧ s.port.current = some t ∧ t.wanted = true ∧ t.kind = .stateUpdate ∧
      s.writer.list = .completion x epos :: tasks ∧ s.job x = some j ∧ recordState 2#32 = some .taken) ∧
    (∃ (s : State) (t : Transaction) (record : Word) (tasks : List WriteTask), s.pins.resetActive = false ∧
      s.port.current = some t ∧ t.wanted = true ∧ t.kind = .release ∧ s.writer.list = .release record :: tasks ∧
      s.walker.stage ≠ .releaseWait) ∧
    (∃ (s : State) (t : Transaction) (record : Word) (tasks : List WriteTask), s.pins.resetActive = false ∧
      s.port.current = some t ∧ t.wanted = true ∧ t.kind = .release ∧ s.writer.list = .release record :: tasks ∧
      s.walker.stage = .releaseWait) ∧
    (∃ (s : State) (x : SlotId) (epos : Word) (tasks : List WriteTask) (j : Job),
      s.writer.list = .completion x epos :: tasks ∧ s.job x = some j ∧ s.writer.written = 8) ∧
    ∃ (s : State) (x : SlotId) (epos : Word) (tasks : List WriteTask) (j : Job),
      s.writer.list = .completion x epos :: tasks ∧ s.job x = some j ∧ s.writer.written = 9 :=
  let completion : List WriteTask := [.completion .slot0 5#32]
  ⟨⟨writing completion .resultWrite, _, rfl, rfl, rfl, rfl⟩,
    ⟨writing completion .stateUpdate, _, .slot0, _, _, _, rfl, rfl, rfl, rfl, rfl, rfl, by decide⟩,
    ⟨writing [.release 0x100#32] .release, _, _, _, rfl, rfl, rfl, rfl, rfl, by decide⟩,
    ⟨{ writing [.release 0x100#32] .release with walker := { Walker.reset 0#32 with stage := .releaseWait } }, _, _, _,
      rfl, rfl, rfl, rfl, rfl, rfl⟩,
    ⟨{ writing completion .resultWrite with writer := ⟨completion, 8⟩ }, .slot0, _, _, _, rfl, rfl, rfl⟩,
    ⟨{ writing completion .stateUpdate with writer := ⟨completion, 9⟩ }, .slot0, _, _, _, rfl, rfl, rfl⟩⟩

theorem witness_StateWordFields :
    (∃ entry : Nat, entry < 64 ∧ entry = 63) ∧ ∀ i ∈ [3, 15, 30, 31], ((3 ≤ i ∧ i < 16) ∨ 30 ≤ i) ∧ i < 32 :=
  ⟨⟨63, by decide, rfl⟩, by decide⟩

/-- The port with a current transaction and requests. -/
def ported (current builder writer walker : Option Transaction) (waited : Bool) : State :=
  { inEngine .running with port := ⟨current, builder, writer, walker, waited⟩ }

theorem witness_PortGranted :
    let t (kind : TxKind) : Transaction := ⟨kind, 0x100#32, 1, 0#32, true⟩
    (∃ (s : State) (u : Transaction), s.pins.resetActive = false ∧ s.port.current = some u) ∧
    (∃ s : State, s.pins.resetActive = false ∧ s.ctl.engine = .faulted ∧ s.port.current = none ∧
      s.port.builderReq ≠ none) ∧
    (∃ s : State, s.pins.resetActive = false ∧ s.port.current = none ∧ s.ctl.engine ≠ .faulted ∧
      s.port.builderReq = some (t .rowRead) ∧
      s.port.builderWaited = true ∧ s.port.writerReq = some (t .release)) ∧
    (∃ s : State, s.pins.resetActive = false ∧ s.port.current = none ∧ s.ctl.engine ≠ .faulted ∧
      s.port.builderReq = some (t .rowRead) ∧
      s.port.builderWaited = false ∧ s.port.writerReq = none ∧ s.port.walkerReq = none) ∧
    (∃ s : State, s.pins.resetActive = false ∧ s.port.current = none ∧ s.ctl.engine ≠ .faulted ∧
      s.port.writerReq = some (t .release) ∧
      s.port.builderReq = some (t .rowRead) ∧ s.port.builderWaited = false) ∧
    (∃ s : State, s.pins.resetActive = false ∧ s.port.current = none ∧ s.ctl.engine ≠ .faulted ∧
      s.port.walkerReq = some (t .linkRead) ∧
      s.port.writerReq = none ∧ s.port.builderReq = some (t .rowRead) ∧ s.port.builderWaited = false) ∧
    ∃ s : State, s.pins.resetActive = false ∧ s.port.builderReq = none ∧ s.port.writerReq = none ∧
      s.port.walkerReq = none :=
  let t (kind : TxKind) : Transaction := ⟨kind, 0x100#32, 1, 0#32, true⟩
  ⟨⟨ported (some (t .linkRead)) none none none false, _, rfl, rfl⟩,
    ⟨{ inEngine .faulted with port := { Port.reset with builderReq := some (t .rowRead) } }, rfl, rfl, rfl, by decide⟩,
    ⟨ported none (some (t .rowRead)) (some (t .release)) none true, rfl, rfl, by decide, rfl, rfl, rfl⟩,
    ⟨ported none (some (t .rowRead)) none none false, rfl, rfl, by decide, rfl, rfl, rfl, rfl⟩,
    ⟨ported none (some (t .rowRead)) (some (t .release)) none false, rfl, rfl, by decide, rfl, rfl, rfl⟩,
    ⟨ported none (some (t .rowRead)) none (some (t .linkRead)) false, rfl, rfl, by decide, rfl, rfl, rfl, rfl⟩,
    ⟨State.reset, rfl, rfl, rfl, rfl⟩⟩

/-- A built job that carries a fault. -/
def faultedJob : Job := { builtJob with fault := some (.halted, 0) }

theorem witness_CompletionsBegin :
    (∃ (s : State) (x : SlotId), s.pins.resetActive = false ∧ s.queue = [.finish x] ∧ s.shifting x = false) ∧
    (∃ (s : State) (x : SlotId), s.pins.resetActive = false ∧ s.queue = [.finish x] ∧ s.shifting x = true) ∧
    (∃ s : State, s.pins.resetActive = false ∧ ∀ y items, s.queue ≠ .finish y :: items) ∧
    (∃ (s : State) (x : SlotId) (j : Job), s.pins.resetActive = false ∧ s.job x = some j ∧ j.fault ≠ none ∧
      j.phase ≠ .completing ∧ s.builder.job ≠ some x ∧ s.builder.orphan ≠ some x ∧ s.shifting x = false) ∧
    (∃ (s : State) (x : SlotId) (j : Job), s.pins.resetActive = false ∧ s.job x = some j ∧ j.fault ≠ none ∧
      s.builder.orphan = some x) ∧
    (∃ (s : State) (x : SlotId) (j : Job), s.pins.resetActive = false ∧ s.job x = some j ∧ j.fault = none) ∧
    ∃ (s : State) (x : SlotId), s.pins.resetActive = false ∧ s.job x = none :=
  ⟨⟨queued (holding builtJob) [.finish .slot0], _, rfl, rfl, rfl⟩,
    ⟨shiftingRow (queued (holding builtJob) [.finish .slot0]), _, rfl, rfl, rfl⟩,
    ⟨State.reset, rfl, by simp [State.reset, State.afterReset]⟩,
    ⟨holding faultedJob, .slot0, _, rfl, rfl, by decide, by decide, by decide, by decide, rfl⟩,
    ⟨{ holding faultedJob with builder := { Builder.reset with orphan := some .slot0 } }, .slot0, _, rfl, rfl, by decide,
      rfl⟩,
    ⟨holding builtJob, .slot0, _, rfl, rfl, rfl⟩, ⟨State.reset, .slot0, rfl, rfl⟩⟩

theorem witness_DrainEnds :
    (∃ s : State, s.pins.resetActive = false ∧ s.ctl.engine = .abandoning ∧ s.slots.slot0 = none ∧
      s.slots.slot1 = none ∧ (∀ linked header, s.walker.stage ≠ .exchange linked header) ∧ s.writer.list = [] ∧
      s.port.outstanding .walker = false) ∧
    (∃ s : State, s.pins.resetActive = false ∧ s.ctl.engine ≠ .draining ∧ s.ctl.engine ≠ .abandoning) ∧
    (∃ s : State, s.pins.resetActive = false ∧ s.ctl.engine = .draining ∧ s.slots.slot0 ≠ none) ∧
    (∃ s : State, s.pins.resetActive = false ∧ ∃ linked header, s.walker.stage = .exchange linked header) ∧
    (∃ s : State, s.pins.resetActive = false ∧ s.writer.list ≠ []) ∧
    ∃ s : State, s.pins.resetActive = false ∧ s.port.outstanding .walker = true :=
  ⟨⟨inEngine .abandoning, rfl, rfl, rfl, rfl, by simp [inEngine, State.reset, State.afterReset, Walker.reset], rfl, rfl⟩,
    ⟨State.reset, rfl, by decide, by decide⟩,
    ⟨{ holding builtJob with ctl := (inEngine .draining).ctl }, rfl, rfl, by decide⟩,
    ⟨looking (.exchange 0x200#32 ⟨1#2, 8, true, false⟩) .takeExchange, rfl, _, _, rfl⟩,
    ⟨writing [.release 0x100#32] .release, rfl, by decide⟩, ⟨looking .link .linkRead, rfl, rfl⟩⟩

theorem witness_JobFaultTaken :
    (∃ (s : State) (x : SlotId) (j : Job), s.job x = some j ∧ j.fault = none ∧ j.phase ≠ .completing ∧
      s.builder.job = some x ∧ s.builder.state = .fetching ∧ s.builder.want = none ∧ s.countingJob = some x) ∧
    (∃ (s : State) (x : SlotId) (j : Job), s.job x = some j ∧ j.fault = none ∧ j.phase ≠ .completing ∧
      s.builder.job ≠ some x ∧ Item.setup x ∈ s.queue ∧ s.countingJob ≠ some x) ∧
    (∃ (s : State) (x : SlotId) (j : Job), s.job x = some j ∧ j.fault = none ∧ j.phase ≠ .completing ∧
      s.builder.job = some x ∧ s.builder.task = .setupItem ∧ Item.setup x ∉ s.queue) ∧
    (∃ s : State, s.builder.job = none) ∧
    (∃ (s : State) (x : SlotId) (j : Job), s.job x = some j ∧ j.fault ≠ none) ∧
    (∃ (s : State) (x : SlotId) (j : Job), s.job x = some j ∧ j.phase = .completing) ∧
    ∃ (s : State) (x : SlotId), s.job x = none :=
  ⟨⟨fetching .entryRead .entry, .slot0, _, rfl, rfl, by decide, rfl, rfl, rfl, rfl⟩,
    ⟨{ State.reset with slots := ⟨some builtJob, some builtJob, .slot0⟩, queue := [.setup .slot1] }, .slot1, _, rfl, rfl,
      by decide, by decide, by decide, by decide⟩,
    ⟨walkingAt .setupItem 0 [] [], .slot0, job, rfl, rfl, by decide, rfl, rfl, List.not_mem_nil⟩, ⟨State.reset, rfl⟩,
    ⟨holding faultedJob, .slot0, _, rfl, by decide⟩,
    ⟨holding { job with phase := .completing }, .slot0, _, rfl, rfl⟩, ⟨State.reset, .slot0, rfl⟩⟩

/-- Counters at and next to their largest values. -/
theorem test_saturation :
    satInc (65534#16) = 65535#16 ∧ satInc (65535#16) = 65535#16 ∧ satInc (0#16) = 1#16 ∧
    satInc (4294967294#32) = 4294967295#32 ∧ satInc (4294967295#32) = 4294967295#32 ∧
    satAdd (4294967290#32) 5 = 4294967295#32 ∧ satAdd (4294967290#32) 6 = 4294967295#32 ∧
    satAdd (4294967290#32) 4 = 4294967294#32 ∧ satAdd (7#32) 0 = 7#32 := by decide

/-- Each hypothesis on a counter, at its boundary. -/
theorem witness_saturation :
    (∃ x : BitVec 16, x.toNat < 65535 ∧ x.toNat + 1 = 65535) ∧ (∃ x : BitVec 16, x.toNat = 65535) ∧
    (∃ x : BitVec 32, x.toNat < 4294967295 ∧ x.toNat + 1 = 4294967295) ∧ ∃ x : BitVec 32, x.toNat = 4294967295 :=
  ⟨⟨65534#16, by decide, rfl⟩, ⟨65535#16, rfl⟩, ⟨4294967294#32, by decide, rfl⟩, ⟨4294967295#32, rfl⟩⟩

theorem witness_CountingJob :
    (∃ (s : State) (x : SlotId) (j : Job), s.slots.oldest = some x ∧ s.job x = some j ∧ j.phase ≠ .completing ∧
      s.countingJob = some x) ∧
    (∃ (s : State) (x : SlotId) (j k : Job), s.slots.oldest = some x ∧ s.job x = some j ∧ j.phase = .completing ∧
      s.job (otherSlot x) = some k ∧ k.phase ≠ .completing) ∧
    (∃ (s : State) (x : SlotId) (j : Job), s.slots.oldest = some x ∧ s.job x = some j ∧ j.phase = .completing ∧
      s.job (otherSlot x) = none) ∧
    (∃ (s : State) (x : SlotId) (j k : Job), s.slots.oldest = some x ∧ s.job x = some j ∧ j.phase = .completing ∧
      s.job (otherSlot x) = some k ∧ k.phase = .completing) ∧
    ∃ s : State, s.slots.oldest = none ∧ s.countingJob = none :=
  let completing : Job := { job with phase := .completing }
  ⟨⟨holding job, .slot0, _, rfl, rfl, by decide, rfl⟩,
    ⟨{ State.reset with slots := ⟨some completing, some builtJob, .slot0⟩ }, .slot0, _, _, rfl, rfl, rfl, rfl, by decide⟩,
    ⟨holding completing, .slot0, _, rfl, rfl, rfl, rfl⟩,
    ⟨{ State.reset with slots := ⟨some completing, some completing, .slot0⟩ }, .slot0, _, _, rfl, rfl, rfl, rfl, rfl⟩,
    ⟨State.reset, rfl, rfl⟩⟩

/-- A state of the invariants from which a step with a command in front answers next. -/
theorem witness_invariants :
    ∃ s t : State, s.Bounded ∧ s.HeadConsistent ∧ s.Linked ∧ s.Ordered ∧ step s = .next t ∧ t ≠ s :=
  ⟨State.afterReset 0#32 0#8 Pins.reset 0 [.illegalTransition], _, bounded_afterReset _ _ _ _ _,
    consistent_afterReset _ _ _ _ _, linked_afterReset _ _ _ _ _, ordered_afterReset _ _ _ _ _, rfl, by decide⟩

end Sys2Proof.Tests
end

/-! ## How a command reaches the block

Every command but the release of RESET is an event: the pins may move, and the block then takes the command's effect
unless RESET is active (R170). -/

namespace Sys2Proof.Machine

/-- What a command does to the block that takes it, the state before the pins moved given: whether a level on
HEAD_PRESENT or MARK is a change depends on that state. The release of RESET is no event that the block takes. -/
def State.effect (before : State) (c : Instr) (s : State) : State :=
  match c with
  | .start => s.doStart
  | .stop => s.doStop
  | .halt => s.doHalt
  | .skip => s.doSkip
  | .look => s.doLook
  | .reset => s.softReset
  | .chainWrite value => s.writeChain value
  | .attnWrite value => s.writeAttn value
  | .attnEnWrite value => s.writeAttnEn value
  | .registerWrite offset bytes value => s.writeRegister offset bytes value
  | .pinResetAssert => s.pinReset
  | .pinResetRelease => s
  | .encoderStep direction => (s.takeLines s.pins.enc).encoderStepped direction
  | .illegalTransition => (s.takeLines s.pins.enc).raise .encoderSlip
  | .markActiveEdge => if before.pins.mark = before.activeLevel then s else s.mapTracker Tracker.activeEdge
  | .markInactiveEdge => if before.pins.mark = before.activeLevel then s.inactiveEdge else s
  | .headPresentInactive => if before.pins.headPresent then s.headLoss else s
  | .headPresentActive =>
    if before.pins.headPresent then s else if s.head.state = .lost then s.beginWarmup.rest else s
  | .stillTimerExpiry => if s.tracker.stillTimer.runs then s.stillExpired else s
  | .warmupExpiry => if s.head.state = .warming ∧ s.head.warmupTimer.runs then s.enterReady.rest else s
  | .firePulse =>
    match s.head.shift with
    | .row _ x substitutions lostDots => (s.fired x substitutions lostDots).rest
    | .idle | .tickle _ => s
  | .ticklePulse =>
    match s.head.shift with
    | .tickle _ => s.endShift .tickle
    | .idle | .row .. => s
  | .tickleIdleExpiry =>
    if s.head.idleTimer.runs ∧ s.head.state = .ready then
      State.tickleOn { s with head := { s.head with idleTimer := .stopped } }
    else s
  | .periodTimerExpiry => if s.head.periodTimer.runs ∧ s.head.tickleActive then s.nextPeriod else s
  | .pollTimerExpiry => if s.walker.pollTimer.runs then s.pollExpired.rest else s
  | .dividerExpiry => s.orStay s.tryDivider
  | .entryReadDone result batch => s.endBuilderRead .entryRead fun u => u.entryRead result batch
  | .rowReadDone result => s.endBuilderRead .rowRead fun u => u.rowRead result
  | .overlayReadDone result => s.endBuilderRead .overlayRead fun u => u.overlayRead result
  | .tableReadDone result => s.endBuilderRead .tableRead fun u => u.tableRead result
  | .setupBlockReadDone result => s.endBuilderRead .setupBlockRead fun u => u.setupBlockRead result
  | .mapReadDone result => s.endBuilderRead .mapRead fun u => u.mapRead result
  | .linkReadDone result => s.endTransaction .linkRead (fun _ => .nothing) fun _ u => u.linkRead result
  | .stateReadDone result => s.endTransaction .stateRead (fun _ => .nothing) fun _ u => u.stateRead result
  | .headerReadDone result => s.endTransaction .headerRead (fun _ => .nothing) fun _ u => u.headerRead result
  | .takeExchangeDone result =>
    s.endTransaction .takeExchange (fun tx => exchangeBus tx.address result) fun tx u =>
      (u.onBus (exchangeBus tx.address result)).exchangeDone result
  | .resultWriteDone result =>
    s.endTransaction .resultWrite (fun tx => tx.resultBus result) fun tx u => u.resultWritten tx result
  | .stateUpdateDone result =>
    s.endTransaction .stateUpdate (fun tx => .mayHaveWritten tx.address) fun tx u => u.stateUpdated tx result
  | .releaseDone result =>
    s.endTransaction .release (fun tx => releaseBus tx.address result) fun tx u => u.releaseDone tx result
  | .portGrant => s.orStay s.tryGrant
  | .chainLook => s.orStay s.tryLook
  | .heldItemEnter => s.orStay s.tryHeld
  | .stageWaitEnd => s.orStay s.tryStage
  | .freeStart => s.orStay s.tryFree
  | .endTaken => s.orStay s.tryEnd
  | .completionBegin slot => s.orStay (s.tryCompletion slot)
  | .drainEnd => s.orStay s.tryDrainEnd

/-- Every command but the release of RESET is an event with the command's effect, the pins moved or not. -/
theorem exec_eq_pinEvent {c : Instr} (h : c ≠ .pinResetRelease) (s : State) :
    ∃ pins, exec c s = pinEvent s pins (s.effect c) := by
  cases c with
  | pinResetRelease => exact absurd rfl h
  | encoderStep d => exact ⟨s.pins.withEnc (s.pins.enc.step d), rfl⟩
  | illegalTransition => exact ⟨s.pins.withEnc s.pins.enc.flip, rfl⟩
  | entryReadDone result batch => exact ⟨s.pins.withBatch batch, rfl⟩
  | markActiveEdge =>
    by_cases active : s.pins.mark = s.activeLevel
    · exact ⟨s.pins, by simp [exec, execMarkActiveEdge, pinEvent, event, State.effect, active]⟩
    · exact ⟨s.pins.withMark s.activeLevel, by simp [exec, execMarkActiveEdge, pinEvent, event, State.effect, active]⟩
  | markInactiveEdge =>
    by_cases active : s.pins.mark = s.activeLevel
    · exact ⟨s.pins.withMark (!s.activeLevel), by
        simp [exec, execMarkInactiveEdge, pinEvent, event, State.effect, active]⟩
    · exact ⟨s.pins, by simp [exec, execMarkInactiveEdge, pinEvent, event, State.effect, active]⟩
  | headPresentInactive =>
    by_cases present : s.pins.headPresent = true
    · exact ⟨s.pins.withHead false, by simp [exec, execHeadPresentInactive, pinEvent, event, State.effect, present]⟩
    · exact ⟨s.pins, by simp [exec, execHeadPresentInactive, pinEvent, event, State.effect, present]⟩
  | headPresentActive =>
    by_cases present : s.pins.headPresent = true
    · exact ⟨s.pins, by simp [exec, execHeadPresentActive, pinEvent, event, State.effect, present]⟩
    · exact ⟨s.pins.withHead true, by simp [exec, execHeadPresentActive, pinEvent, event, State.effect, present]⟩
  | _ => exact ⟨s.pins, rfl⟩

/-- An effect that comes only when its condition holds. -/
theorem keeps_ite (P : State → Prop) {p : Prop} [Decidable p] {s t : State} (act : p → P t) (stay : P s) :
    P (if p then t else s) := by
  split
  · exact act ‹p›
  · exact stay

/-- A property that neither the levels on the lines nor the waiting commands touch, and that the release of RESET and
the effect of every command keep, is kept by every step. -/
theorem stepKeeps_of_effect {P : State → Prop}
    (lines : ∀ s pins pending, P s → P { s with pins := pins, outs := Outputs.none, pending := pending })
    (release : ∀ s, P s → P s.pinRelease) (effect : ∀ c before s, P s → P (State.effect before c s)) : StepKeeps P := by
  intro s t h e
  unfold step at e
  split at e
  · cases e; exact h
  rename_i c rest _
  by_cases hc : c = .pinResetRelease
  · subst hc
    cases e
    split
    · exact release _ (lines s s.pins rest h)
    · exact lines s s.pins rest h
  · obtain ⟨pins, eq⟩ := exec_eq_pinEvent hc { s with pending := rest }
    rw [eq] at e
    exact keeps_event e (lines s pins rest h) (effect c _ _)

end Sys2Proof.Machine

/-! ## O57: the bounds of the block -/

namespace Sys2Proof.Machine

/-! ### Motion, the head and the marks -/

theorem bounded_takeLines {s : State} (h : s.Bounded) (l) : (s.takeLines l).Bounded :=
  bounded_mapTracker h h.marks h.debt

theorem bounded_encoderStepped {s : State} (h : s.Bounded) (d) : (s.encoderStepped d).Bounded := by
  have debt := h.debt
  unfold State.encoderStepped
  split
  · split
    · exact bounded_mapTracker h h.marks (by simp only; omega)
    · exact bounded_rest (bounded_reverseLimitEvent h)
  · split
    · exact bounded_mapTracker h h.marks (by simp only; omega)
    · exact bounded_rest (bounded_effectiveStep h)

theorem bounded_activeEdge {s : State} (h : s.Bounded) : (s.mapTracker Tracker.activeEdge).Bounded := by
  refine bounded_mapTracker h ?_ ?_ <;> unfold Tracker.activeEdge <;> split
  all_goals first | exact h.marks | exact h.debt

theorem bounded_stillExpired {s : State} (h : s.Bounded) : s.stillExpired.Bounded :=
  bounded_raise (bounded_mapTracker h h.marks h.debt) _

theorem bounded_headLoss {s : State} (h : s.Bounded) : s.headLoss.Bounded := by
  unfold State.headLoss
  split
  · refine bounded_rest (bounded_raise ?_ _)
    split
    · exact bounded_faultCounting (bounded_loseHead h) _
    · exact bounded_loseHead h
  · exact h

theorem bounded_endShift {s : State} (h : s.Bounded) (k) : (s.endShift k).Bounded :=
  bounded_of_eq h rfl rfl rfl rfl rfl rfl

theorem bounded_fired {s : State} (h : s.Bounded) (x a b) : (s.fired x a b).Bounded :=
  bounded_of_eq (bounded_tickleOff (bounded_endShift (bounded_mapJob h x fun j => j.fired a b) .fire))
    rfl rfl rfl rfl rfl rfl

theorem bounded_tickleOn {s : State} (h : s.Bounded) : s.tickleOn.Bounded :=
  bounded_beginPeriod (bounded_head h (Nat.zero_lt_succ 7))

theorem bounded_nextPeriod {s : State} (h : s.Bounded) : s.nextPeriod.Bounded :=
  bounded_beginPeriod (bounded_head h (Nat.mod_lt _ (Nat.zero_lt_succ 7)))

/-! ### The own steps that a command can name -/

theorem bounded_tryDivider {s t : State} (h : s.Bounded) (e : s.tryDivider = some t) : t.Bounded := by
  obtain ⟨-, rfl⟩ : _ ∧ s.dividerExpires = t := by simpa [State.tryDivider] using e
  exact bounded_dividerExpires h

theorem bounded_tryFree {s t : State} (h : s.Bounded) (e : s.tryFree = some t) : t.Bounded := by
  obtain ⟨-, rfl⟩ : _ ∧ s.freeStarted = t := by simpa [State.tryFree] using e
  exact bounded_start h (by decide)

theorem bounded_tryCompletion {s t : State} (h : s.Bounded) {x} (e : s.tryCompletion x = some t) : t.Bounded := by
  obtain ⟨-, rfl⟩ : _ ∧ s.beginCompletion x = t := by simpa [State.tryCompletion] using e
  exact bounded_addTask (bounded_mapJob h _ _) _

theorem bounded_tryDrainEnd {s t : State} (h : s.Bounded) (e : s.tryDrainEnd = some t) : t.Bounded := by
  obtain ⟨-, rfl⟩ : _ ∧ s.enterStopped = t := by simpa [State.tryDrainEnd] using e
  exact bounded_enterStopped h

theorem bounded_tryLook {s t : State} (h : s.Bounded) (e : s.tryLook = some t) : t.Bounded := by
  obtain ⟨-, rfl⟩ : _ ∧ s.beginLook = t := by simpa [State.tryLook] using e
  exact bounded_lookOn (bounded_walker h _) _ _ _ _

theorem bounded_tryGrant {s t : State} (h : s.Bounded) (e : s.tryGrant = some t) : t.Bounded := by
  unfold State.tryGrant at e
  split at e
  · cases e
  · obtain ⟨r, -, rfl⟩ := Option.map_eq_some_iff.mp e
    exact bounded_port h _

/-! ### Every command -/

theorem bounded_effect {s : State} (h : s.Bounded) (before : State) (c : Instr) :
    (State.effect before c s).Bounded := by
  cases c with
  | start => exact bounded_doStart h
  | stop => exact bounded_doStop h
  | halt => exact bounded_doHalt h
  | skip => exact bounded_doSkip h
  | look => exact bounded_doLook h
  | reset => exact bounded_resetTo _ _ _ _
  | chainWrite v => exact bounded_writeChain h v
  | attnWrite v => exact bounded_ctl h _
  | attnEnWrite v => exact bounded_ctl h _
  | registerWrite o b v => exact bounded_writeRegister h o b v
  | pinResetAssert => exact bounded_resetTo _ _ _ _
  | pinResetRelease => exact h
  | encoderStep d => exact bounded_encoderStepped (bounded_takeLines h _) d
  | illegalTransition => exact bounded_raise (bounded_takeLines h _) _
  | markActiveEdge =>
    simp only [State.effect]
    split
    · exact h
    · exact bounded_activeEdge h
  | markInactiveEdge => exact keeps_ite State.Bounded (fun _ => bounded_inactiveEdge h) h
  | headPresentInactive => exact keeps_ite State.Bounded (fun _ => bounded_headLoss h) h
  | headPresentActive =>
    simp only [State.effect]
    split
    · exact h
    · exact keeps_ite State.Bounded (fun _ => bounded_rest (bounded_beginWarmup h)) h
  | stillTimerExpiry => exact keeps_ite State.Bounded (fun _ => bounded_stillExpired h) h
  | warmupExpiry => exact keeps_ite State.Bounded (fun _ => bounded_rest (bounded_enterReady h)) h
  | firePulse =>
    simp only [State.effect]
    split
    · exact bounded_rest (bounded_fired h _ _ _)
    all_goals exact h
  | ticklePulse =>
    simp only [State.effect]
    split
    · exact bounded_endShift h _
    all_goals exact h
  | tickleIdleExpiry =>
    have stopped := bounded_head h (hd := { s.head with idleTimer := .stopped }) h.period
    exact keeps_ite State.Bounded (fun _ => bounded_tickleOn stopped) h
  | periodTimerExpiry => exact keeps_ite State.Bounded (fun _ => bounded_nextPeriod h) h
  | pollTimerExpiry => exact keeps_ite State.Bounded (fun _ => bounded_rest (bounded_oweLook (bounded_walker h _))) h
  | dividerExpiry => exact bounded_orStay h fun _ => bounded_tryDivider h
  | entryReadDone r b => exact bounded_endBuilderRead h _ fun _ k => bounded_entryRead k r b
  | rowReadDone r => exact bounded_endBuilderRead h _ fun _ k => bounded_rowRead k r
  | overlayReadDone r => exact bounded_endBuilderRead h _ fun _ k => bounded_overlayRead k r
  | tableReadDone r => exact bounded_endBuilderRead h _ fun _ k => bounded_tableRead k r
  | setupBlockReadDone r => exact bounded_endBuilderRead h _ fun _ k => bounded_setupBlockRead k r
  | mapReadDone r => exact bounded_endBuilderRead h _ fun _ k => bounded_mapRead k r
  | linkReadDone r => exact bounded_endTransaction h _ fun _ _ k => bounded_linkRead k r
  | stateReadDone r => exact bounded_endTransaction h _ fun _ _ k => bounded_stateRead k r
  | headerReadDone r => exact bounded_endTransaction h _ fun _ _ k => bounded_headerRead k r
  | takeExchangeDone r => exact bounded_endTransaction h _ fun _ _ k => bounded_exchangeDone (bounded_onBus k _) r
  | resultWriteDone r => exact bounded_endTransaction h _ fun tx _ k => bounded_resultWritten k tx r
  | stateUpdateDone r => exact bounded_endTransaction h _ fun tx _ k => bounded_stateUpdated k tx r
  | releaseDone r => exact bounded_endTransaction h _ fun tx _ k => bounded_releaseDone k tx r
  | portGrant => exact bounded_orStay h fun _ => bounded_tryGrant h
  | chainLook => exact bounded_orStay h fun _ => bounded_tryLook h
  | heldItemEnter => exact bounded_orStay h fun _ => bounded_tryHeld h
  | stageWaitEnd => exact bounded_orStay h fun _ => bounded_tryStage h
  | freeStart => exact bounded_orStay h fun _ => bounded_tryFree h
  | endTaken => exact bounded_orStay h fun _ => bounded_tryEnd h
  | completionBegin x => exact bounded_orStay h fun _ => bounded_tryCompletion h
  | drainEnd => exact bounded_orStay h fun _ => bounded_tryDrainEnd h

/-- Settles O57: the effect of every command keeps the bounds, which name no line and no waiting command. -/
theorem boundsKept : Obligations.BoundsKept :=
  stepKeeps_of_effect (fun _ _ _ h => bounded_of_eq h rfl rfl rfl rfl rfl rfl)
    (fun _ h => bounded_of_eq (bounded_takeLines h _) rfl rfl rfl rfl rfl rfl)
    fun c before _ h => bounded_effect h before c

end Sys2Proof.Machine

/-! ## O59: the links between jobs, items, tasks and reads, and their order -/

namespace Sys2Proof.Machine

/-! ### Motion, the head and the timers keep the links -/

theorem linked_takeLines {s : State} (h : s.Linked) (l) : (s.takeLines l).Linked := linked_tracker h fun m _ => m

theorem linked_encoderStepped {s : State} (h : s.Linked) (d) : (s.encoderStepped d).Linked := by
  unfold State.encoderStepped
  split
  · split
    · exact linked_tracker h fun m _ => m
    · exact linked_rest (linked_reverseLimitEvent h)
  · split
    · exact linked_tracker h fun m _ => m
    · exact linked_rest (linked_effectiveStep h)

theorem linked_activeEdge {s : State} (h : s.Linked) : (s.mapTracker Tracker.activeEdge).Linked := by
  refine linked_tracker h fun m _ => ?_
  unfold Tracker.activeEdge
  split <;> exact m

theorem linked_stillExpired {s : State} (h : s.Linked) : s.stillExpired.Linked :=
  linked_raise (linked_tracker h (t := { s.tracker with web := .still, stillTimer := .stopped }) fun m _ => m) _

theorem linked_headLoss {s : State} (h : s.Linked) : s.headLoss.Linked := by
  unfold State.headLoss
  split
  · rename_i attached
    have on := resting_of_head h (by intro off; simp [off, HeadState.attached] at attached)
    refine linked_rest (linked_raise ?_ _)
    split
    · exact linked_faultCounting (linked_loseHead h on) _
    · exact linked_loseHead h on
  · exact h

theorem linked_ticklePulse {s : State} (h : s.Linked) {p} (e : s.head.shift = .tickle p) :
    (s.endShift .tickle).Linked :=
  have ended : State.Linked { s with head := (s.endShift .tickle).head } :=
    linked_shift h (fun x => by simp [State.shifting, State.endShift, e]) id
  linked_of_eq ended rfl rfl rfl rfl rfl rfl id rfl id id

theorem linked_tickleOn {s : State} (h : s.Linked) : s.tickleOn.Linked := linked_beginPeriod (linked_head h rfl id)

theorem linked_nextPeriod {s : State} (h : s.Linked) : s.nextPeriod.Linked := linked_beginPeriod (linked_head h rfl id)

theorem linked_pollExpired {s : State} (h : s.Linked) : s.pollExpired.Linked :=
  linked_oweLook (linked_walkerKeep h (w := { s.walker with state := .idle, pollTimer := .stopped }) rfl)

theorem linked_tryGrant {s t : State} (h : s.Linked) (e : s.tryGrant = some t) : t.Linked := by
  unfold State.tryGrant at e
  split at e
  · cases e
  · obtain ⟨r, -, rfl⟩ := Option.map_eq_some_iff.mp e
    exact linked_port h _

/-! ### The effect of every command keeps the links -/

theorem linked_effect {s : State} (h : s.Linked) (before : State) (c : Instr) : (State.effect before c s).Linked := by
  cases c with
  | start => exact linked_doStart h
  | stop => exact linked_doStop h
  | halt => exact linked_doHalt h
  | skip => exact linked_doSkip h
  | look => exact linked_doLook h
  | reset => exact linked_resetTo _ _ _ _
  | chainWrite v => exact linked_writeChain h v
  | attnWrite v => exact linked_ctl h id
  | attnEnWrite v => exact linked_ctl h id
  | registerWrite o b v => exact linked_writeRegister h o b v
  | pinResetAssert => exact linked_resetTo _ _ _ _
  | pinResetRelease => exact h
  | encoderStep d => exact linked_encoderStepped (linked_takeLines h _) d
  | illegalTransition => exact linked_raise (linked_takeLines h _) _
  | markActiveEdge =>
    simp only [State.effect]
    split
    · exact h
    · exact linked_activeEdge h
  | markInactiveEdge => exact keeps_ite State.Linked (fun _ => linked_inactiveEdge h) h
  | headPresentInactive => exact keeps_ite State.Linked (fun _ => linked_headLoss h) h
  | headPresentActive =>
    simp only [State.effect]
    split
    · exact h
    · exact keeps_ite State.Linked
        (fun lost => linked_rest (linked_beginWarmup h (resting_of_head h (by simp [lost])))) h
  | stillTimerExpiry => exact keeps_ite State.Linked (fun _ => linked_stillExpired h) h
  | warmupExpiry =>
    exact keeps_ite State.Linked
      (fun warming => linked_rest (linked_enterReady h (resting_of_head h (by simp [warming.1])))) h
  | firePulse =>
    simp only [State.effect]
    split
    · exact linked_rest (linked_fired h ‹_›)
    all_goals exact h
  | ticklePulse =>
    simp only [State.effect]
    split
    · exact linked_ticklePulse h ‹_›
    all_goals exact h
  | tickleIdleExpiry =>
    have stopped := linked_head h (hd := { s.head with idleTimer := .stopped }) rfl id
    exact keeps_ite State.Linked (fun _ => linked_tickleOn stopped) h
  | periodTimerExpiry => exact keeps_ite State.Linked (fun _ => linked_nextPeriod h) h
  | pollTimerExpiry => exact keeps_ite State.Linked (fun _ => linked_rest (linked_pollExpired h)) h
  | dividerExpiry => exact linked_orStay h fun _ => linked_tryDivider h
  | entryReadDone r b => exact linked_endBuilderRead h _ fun _ k e => linked_entryRead k e r b
  | rowReadDone r => exact linked_endBuilderRead h _ fun _ k e => linked_rowRead k e r
  | overlayReadDone r => exact linked_endBuilderRead h _ fun _ k _ => linked_overlayRead k r
  | tableReadDone r => exact linked_endBuilderRead h _ fun _ k _ => linked_tableRead k r
  | setupBlockReadDone r => exact linked_endBuilderRead h _ fun _ k e => linked_setupBlockRead k e r
  | mapReadDone r => exact linked_endBuilderRead h _ fun _ k e => linked_mapRead k e r
  | linkReadDone r => exact linked_endTransaction h _ fun _ _ k => linked_linkRead k r
  | stateReadDone r => exact linked_endTransaction h _ fun _ _ k => linked_stateRead k r
  | headerReadDone r => exact linked_endTransaction h _ fun _ _ k => linked_headerRead k r
  | takeExchangeDone r => exact linked_endTransaction h _ fun _ _ k => linked_exchangeDone (linked_onBus k _) r
  | resultWriteDone r => exact linked_endTransaction h _ fun tx _ k => linked_resultWritten k tx r
  | stateUpdateDone r => exact linked_endTransaction h _ fun tx _ k => linked_stateUpdated k tx r
  | releaseDone r => exact linked_endTransaction h _ fun tx _ k => linked_releaseDone k tx r
  | portGrant => exact linked_orStay h fun _ => linked_tryGrant h
  | chainLook => exact linked_orStay h fun _ => linked_tryLook h
  | heldItemEnter => exact linked_orStay h fun _ => linked_tryHeld h
  | stageWaitEnd => exact linked_orStay h fun _ => linked_tryStage h
  | freeStart => exact linked_orStay h fun _ => linked_tryFree h
  | endTaken => exact linked_orStay h fun _ => linked_tryEnd h
  | completionBegin x => exact linked_orStay h fun _ => linked_tryCompletion h
  | drainEnd => exact linked_orStay h fun _ => linked_tryDrainEnd h

/-! ### Motion, the head and the timers keep the order -/

theorem ordered_encoderStepped {s : State} (l : s.Linked) (h : s.Ordered) (d) : (s.encoderStepped d).Ordered := by
  unfold State.encoderStepped
  split
  · split
    · exact ordered_mapTracker h _
    · exact ordered_rest (linked_reverseLimitEvent l) (ordered_reverseLimitEvent h)
  · split
    · exact ordered_mapTracker h _
    · exact ordered_rest (linked_effectiveStep l) (ordered_effectiveStep h)

/-- The head is lost outside the resting states, as `Linked` says that it is OFF there. -/
theorem ordered_headLoss {s : State} (l : s.Linked) (h : s.Ordered) : s.headLoss.Ordered := by
  unfold State.headLoss
  split
  · rename_i attached
    have lost := linked_loseHead l (resting_of_head l (by intro off; simp [off, HeadState.attached] at attached))
    split
    · exact ordered_rest (linked_raise (linked_faultCounting lost _) _)
        (ordered_raise (ordered_faultCounting (ordered_loseHead h) _) _)
    · exact ordered_rest (linked_raise lost _) (ordered_raise (ordered_loseHead h) _)
  · exact h

theorem ordered_endShift {s : State} (h : s.Ordered) (k) : (s.endShift k).Ordered :=
  ordered_of_eq h rfl rfl rfl rfl rfl rfl

theorem ordered_pollExpired {s : State} (h : s.Ordered) : s.pollExpired.Ordered :=
  ordered_oweLook (ordered_walker h (.inl rfl))

/-! ### The effect of every command keeps the order -/

theorem ordered_effect {s : State} (l : s.Linked) (h : s.Ordered) (before : State) (c : Instr) :
    (State.effect before c s).Ordered := by
  cases c with
  | start => exact ordered_doStart l h
  | stop => exact ordered_doStop l h
  | halt => exact ordered_doHalt l h
  | skip => exact ordered_doSkip l h
  | look => exact ordered_doLook l h
  | reset => exact ordered_resetTo _ _ _ _
  | chainWrite v => exact ordered_writeChain h v
  | attnWrite v => exact ordered_ctl h _
  | attnEnWrite v => exact ordered_ctl h _
  | registerWrite o b v => exact ordered_writeRegister l h o b v
  | pinResetAssert => exact ordered_resetTo _ _ _ _
  | pinResetRelease => exact h
  | encoderStep d => exact ordered_encoderStepped (linked_takeLines l _) (ordered_mapTracker h _) d
  | illegalTransition => exact ordered_raise (ordered_mapTracker h _) _
  | markActiveEdge =>
    simp only [State.effect]
    split
    · exact h
    · exact ordered_mapTracker h _
  | markInactiveEdge => exact keeps_ite State.Ordered (fun _ => ordered_inactiveEdge h) h
  | headPresentInactive => exact keeps_ite State.Ordered (fun _ => ordered_headLoss l h) h
  | headPresentActive =>
    simp only [State.effect]
    split
    · exact h
    · exact keeps_ite State.Ordered
        (fun lost => ordered_rest (linked_beginWarmup l (resting_of_head l (by simp [lost]))) (ordered_beginWarmup h)) h
  | stillTimerExpiry => exact keeps_ite State.Ordered (fun _ => ordered_raise (ordered_mapTracker h _) _) h
  | warmupExpiry =>
    exact keeps_ite State.Ordered (fun warming =>
      ordered_rest (linked_enterReady l (resting_of_head l (by simp [warming.1]))) (ordered_enterReady h)) h
  | firePulse =>
    simp only [State.effect]
    split
    · exact ordered_rest (linked_fired l ‹_›) (ordered_fired h _ _ _)
    all_goals exact h
  | ticklePulse =>
    simp only [State.effect]
    split
    · exact ordered_endShift h _
    all_goals exact h
  | tickleIdleExpiry =>
    exact keeps_ite State.Ordered (fun _ => ordered_beginPeriod (ordered_head (ordered_head h _) _)) h
  | periodTimerExpiry => exact keeps_ite State.Ordered (fun _ => ordered_beginPeriod (ordered_head h _)) h
  | pollTimerExpiry =>
    exact keeps_ite State.Ordered (fun _ => ordered_rest (linked_pollExpired l) (ordered_pollExpired h)) h
  | dividerExpiry => exact ordered_orStay h fun _ e => ⟨linked_tryDivider l e, ordered_tryDivider h e⟩
  | entryReadDone r b =>
    exact ordered_endBuilderRead l h rfl (fun _ ul e => linked_entryRead ul e r b)
      fun _ _ uo a _ _ => ordered_entryRead uo a r b
  | rowReadDone r =>
    exact ordered_endBuilderRead l h rfl (fun _ ul e => linked_rowRead ul e r)
      fun _ ul uo a _ _ => ordered_rowRead uo ul a r
  | overlayReadDone r =>
    exact ordered_endBuilderRead l h rfl (fun _ ul _ => linked_overlayRead ul r)
      fun _ ul uo a _ _ => ordered_overlayRead uo ul a r
  | tableReadDone r =>
    exact ordered_endBuilderRead l h rfl (fun _ ul _ => linked_tableRead ul r)
      fun _ ul uo a noSwap _ => ordered_tableRead uo ul a (noSwap rfl) r
  | setupBlockReadDone r =>
    exact ordered_endBuilderRead l h rfl (fun _ ul e => linked_setupBlockRead ul e r)
      fun _ _ uo a _ noSetup => ordered_setupBlockRead uo a (noSetup rfl) r
  | mapReadDone r =>
    exact ordered_endBuilderRead l h rfl (fun _ ul e => linked_mapRead ul e r)
      fun _ _ uo a _ _ => ordered_mapRead uo a r
  | linkReadDone r =>
    exact ordered_endTransaction l h _ fun _ _ _ _ _ _ ul uo => ⟨linked_linkRead ul r, ordered_linkRead uo r⟩
  | stateReadDone r =>
    exact ordered_endTransaction l h _ fun _ _ _ _ _ _ ul uo => ⟨linked_stateRead ul r, ordered_stateRead uo r⟩
  | headerReadDone r =>
    exact ordered_endTransaction l h _ fun _ _ _ _ _ _ ul uo => ⟨linked_headerRead ul r, ordered_headerRead uo r⟩
  | takeExchangeDone r =>
    exact ordered_endTransaction l h _ fun _ _ _ _ _ _ ul uo =>
      ⟨linked_exchangeDone (linked_onBus ul _) r, ordered_exchangeDone (ordered_onBus uo _) (linked_onBus ul _) r⟩
  | resultWriteDone r =>
    exact ordered_endTransaction l h _ fun tx _ _ _ _ _ ul uo =>
      ⟨linked_resultWritten ul tx r, ordered_resultWritten uo tx r⟩
  | stateUpdateDone r =>
    exact ordered_endTransaction l h _ fun tx _ _ _ _ _ ul uo =>
      ⟨linked_stateUpdated ul tx r, ordered_stateUpdated uo ul tx r⟩
  | releaseDone r =>
    exact ordered_endTransaction l h _ fun tx _ _ _ _ _ ul uo =>
      ⟨linked_releaseDone ul tx r, ordered_releaseDone uo tx r⟩
  | portGrant => exact ordered_orStay h fun _ e => ⟨linked_tryGrant l e, ordered_tryGrant h e⟩
  | chainLook => exact ordered_orStay h fun _ e => ⟨linked_tryLook l e, ordered_tryLook h e⟩
  | heldItemEnter => exact ordered_orStay h fun _ e => ⟨linked_tryHeld l e, ordered_tryHeld h l e⟩
  | stageWaitEnd => exact ordered_orStay h fun _ e => ⟨linked_tryStage l e, ordered_tryStage h l e⟩
  | freeStart => exact ordered_orStay h fun _ e => ⟨linked_tryFree l e, ordered_tryFree h e⟩
  | endTaken => exact ordered_orStay h fun _ e => ⟨linked_tryEnd l e, ordered_tryEnd h e⟩
  | completionBegin x => exact ordered_orStay h fun _ e => ⟨linked_tryCompletion l e, ordered_tryCompletion h e⟩
  | drainEnd => exact ordered_orStay h fun _ e => ⟨linked_tryDrainEnd l e, ordered_tryDrainEnd h e⟩

/-- A completion for each slot and one release: the write list holds three tasks at most (R141). -/
theorem writeList_length_le {s : State} (l : s.Linked) (h : s.Ordered) : s.writer.list.length ≤ 3 := by
  have completions := slots_le_two l.tasks.1
  have releases : s.writer.list.countP (fun t => t.slot.isNone) ≤ 1 := h.release.releases
  rw [list_length]
  omega

/-- Settles O59: the effect of every command keeps the links, and with them the order. -/
theorem linksKept : Obligations.LinksKept := by
  refine ⟨stepKeeps_of_effect ?_ ?_ ?_, fun s => writeList_length_le⟩
  · rintro s pins pending ⟨l, h⟩
    exact ⟨linked_of_eq l rfl rfl rfl rfl rfl rfl id rfl id id, ordered_of_eq h rfl rfl rfl rfl rfl rfl⟩
  · rintro s ⟨l, h⟩
    exact ⟨linked_of_eq l rfl rfl rfl rfl rfl rfl id rfl id id, ordered_of_eq h rfl rfl rfl rfl rfl rfl⟩
  · rintro c before s ⟨l, h⟩
    exact ⟨linked_effect l before c, ordered_effect l h before c⟩

end Sys2Proof.Machine

/-! ## The reads of the builder as they end, and O43

A read that the builder waits for ends, and the builder, WALKING again, acts on what it brought (R27). -/

namespace Sys2Proof.Machine

theorem readEnds_live {s : State} {kind : TxKind} (h : s.readEnds kind) : s.pins.resetActive = false := by
  obtain ⟨⟨live, -⟩, -⟩ := h
  exact live

/-- An entry read ends: BATCH stands at its level, and the builder acts (R12, R27). -/
theorem exec_entryReadDone {s : State} (h : s.readEnds .entryRead) (result : ReadResult) (batch : Bool) :
    exec (.entryReadDone result batch) s = .next ((s.entryDone batch).entryRead result batch).rest := by
  have live : (s.pins.withBatch batch).resetActive = false := readEnds_live h
  have ends : State.readEnds { s with pins := s.pins.withBatch batch } .entryRead := h
  simp only [exec, execEntryReadDone]
  rw [pinEvent_live live, endBuilderRead_wanted _ ends]
  rfl

/-- A command that ends a read of the builder with an action of the builder. -/
theorem event_readDone {s : State} {kind : TxKind} (h : s.readEnds kind) (act : State → State) :
    event s (fun t => t.endBuilderRead kind act) = .next (act s.readDone).rest := by
  rw [event_live (readEnds_live h), endBuilderRead_wanted act h]

theorem exec_rowReadDone {s : State} (h : s.readEnds .rowRead) (result : ReadResult) :
    exec (.rowReadDone result) s = .next (s.readDone.rowRead result).rest := event_readDone h _

theorem exec_overlayReadDone {s : State} (h : s.readEnds .overlayRead) (result : ReadResult) :
    exec (.overlayReadDone result) s = .next (s.readDone.overlayRead result).rest := event_readDone h _

theorem exec_tableReadDone {s : State} (h : s.readEnds .tableRead) (result : ReadResult) :
    exec (.tableReadDone result) s = .next (s.readDone.tableRead result).rest := event_readDone h _

theorem exec_setupBlockReadDone {s : State} (h : s.readEnds .setupBlockRead) (result : ReadResult) :
    exec (.setupBlockReadDone result) s = .next (s.readDone.setupBlockRead result).rest := event_readDone h _

theorem exec_mapReadDone {s : State} (h : s.readEnds .mapRead) (result : ReadResult) :
    exec (.mapReadDone result) s = .next (s.readDone.mapRead result).rest := event_readDone h _

/-! ### The state in which the builder acts on an entry -/

@[simp] theorem entryDone_task (s : State) (batch) : (s.entryDone batch).builder.task = s.builder.task := rfl

/-- The walk that goes on at an index is a walk with the entry there to be read. -/
theorem walkAt_eq_walking (s : State) (i : Nat) : s.walkAt i = s.walking .entry i := rfl

/-- The walk that goes on with a task stays at its index. -/
theorem walkOn_eq_walking (s : State) (task : BuildTask) : s.walkOn task = s.walking task s.builder.index := rfl

/-! ### Bus errors (O43) -/

/-- An entry read that fails is charged to the entry walked, but for the second slot of an IMAGE (R1, R7, R18). -/
theorem entryErrorIndex_of_not_extension {b : Builder} (h : ∀ image, b.task ≠ .extension image) :
    b.entryErrorIndex = b.index := by
  unfold Builder.entryErrorIndex
  split
  · exact absurd ‹_› (h _)
  · rfl

theorem entryErrorIndex_of_extension {b : Builder} {image} (h : b.task = .extension image) :
    b.entryErrorIndex = b.index + 1 := by simp [Builder.entryErrorIndex, h]

/-- Settles O43: each read's end with a bus error is the fault its rule names. -/
theorem fetchErrors : Obligations.FetchErrors := by
  intro s
  refine ⟨fun batch h => ⟨fun single => ?_, fun image pair => ?_⟩, fun h => exec_rowReadDone h _,
    fun h => exec_overlayReadDone h _, fun h => exec_tableReadDone h _, fun h => exec_setupBlockReadDone h _,
    fun h => exec_mapReadDone h _⟩
  · rw [exec_entryReadDone h]
    simp only [State.entryRead, entryErrorIndex_of_not_extension (b := (s.entryDone batch).builder) single]
    rfl
  · rw [exec_entryReadDone h]
    simp only [State.entryRead, entryErrorIndex_of_extension (b := (s.entryDone batch).builder) pair]
    rfl

end Sys2Proof.Machine

/-! ## O37: the conditions -/

namespace Sys2Proof.Machine

/-- The pass number and LAST as the stack gives them (R12). -/
theorem condition_iff (s : State) (batch : Bool) (condition : Condition) :
    s.condition condition batch = true ↔
      match condition with
      | .always => True
      | .first => passOf s.builder.stack = 1
      | .notFirst => 1 < passOf s.builder.stack
      | .odd => passOf s.builder.stack % 2 = 1
      | .even => passOf s.builder.stack % 2 = 0
      | .last => lastOf s.builder.stack = true
      | .batchOn => batch = true
      | .batchOff => batch = false := by
  cases condition <;> simp [State.condition, Condition.holds]

/-- The three bits of COND, shifted down and masked, are the field of a word (TABLE 10-2). -/
theorem cond_field (w : Word) : (w >>> 4) &&& 7#32 = (w.extractLsb' 4 3).setWidth 32 := by
  have mask : (7#32).toNat = 2 ^ 3 - 1 := rfl
  apply BitVec.eq_of_toNat_eq
  rw [BitVec.toNat_and, mask, Nat.and_two_pow_sub_one_eq_mod]
  simp [BitVec.extractLsb'_toNat]
  omega

/-- The code of a condition by the three bits that hold it (TABLE 1-4). -/
theorem condition_code (code : BitVec 3) :
    (match code.toNat with
      | 0 => Condition.always
      | 1 => .first
      | 2 => .notFirst
      | 3 => .odd
      | 4 => .even
      | 5 => .last
      | 6 => .batchOn
      | _ => .batchOff) =
    match code.setWidth 32 with
      | 0#32 => .always
      | 1#32 => .first
      | 2#32 => .notFirst
      | 3#32 => .odd
      | 4#32 => .even
      | 5#32 => .last
      | 6#32 => .batchOn
      | _ => .batchOff := by
  revert code
  decide

/-- Settles O37: the conditions by the top of the stack, and their codes. -/
theorem conditions : Obligations.Conditions := by
  refine ⟨fun s batch condition => ?_, fun e => ?_⟩
  · rw [condition_iff]
    cases condition <;> cases s.builder.stack <;> simp [passOf, lastOf]
  · rw [cond_field]
    exact condition_code (e.w0.extractLsb' 4 3)

end Sys2Proof.Machine

/-! ## O38: the entries that are walked by their kind -/

namespace Sys2Proof.Machine

/-! ### The formats of an entry (TABLES 10-2 and 10-3) -/

theorem entry_ofWords (w0 w1 w2 w3 w4 : Word) (rest : List Word) :
    Entry.ofWords (w0 :: w1 :: w2 :: w3 :: w4 :: rest) = ⟨w0, w1, w2, w3, w4⟩ := rfl

/-- The kind of an entry by the four bits that hold it (TABLE 1-1). -/
theorem kind_code (code : BitVec 4) :
    (match code.toNat with
      | 1 => some EntryKind.image
      | 2 => some .overlayExt
      | 3 => some .blank
      | 4 => some .waitMark
      | 5 => some .table
      | 6 => some .repeatOpen
      | 7 => some .repeatClose
      | 8 => some .repeatExit
      | 9 => some .finish
      | _ => none) =
    match code with
      | 1#4 => some .image
      | 2#4 => some .overlayExt
      | 3#4 => some .blank
      | 4#4 => some .waitMark
      | 5#4 => some .table
      | 6#4 => some .repeatOpen
      | 7#4 => some .repeatClose
      | 8#4 => some .repeatExit
      | 9#4 => some .finish
      | _ => none := by
  revert code
  decide

theorem aligned_iff (n : Nat) (a : Word) : aligned n a = true ↔ a.toNat % n = 0 := by simp [aligned]

/-- The ranges of an IMAGE (TABLE 1-2). -/
theorem imageFields_legal_iff (f : ImageFields) : f.legal = true ↔
    f.src.toNat % 4 = 0 ∧ (4 ≤ f.stride ∧ f.stride ≤ 65532 ∧ f.stride % 4 = 0) ∧ f.depth ∈ [1, 2, 4] ∧
    f.firstBit ≤ 31 ∧ (1 ≤ f.count ∧ f.count ≤ 65535) ∧ f.nozzle ≤ 639 ∧
    (1 ≤ f.width ∧ f.width ≤ 640 ∧ f.nozzle + f.width ≤ 640) := by
  simp [ImageFields.legal, aligned_iff, and_assoc, or_assoc]

/-- The ranges of an OVERLAY_EXT beside an image of `count` rows (TABLE 1-3). -/
theorem overlayFields_legal_iff (o : OverlayFields) (count : Nat) : o.legal count = true ↔
    o.src.toNat % 4 = 0 ∧ (4 ≤ o.stride ∧ o.stride ≤ 65532 ∧ o.stride % 4 = 0) ∧ o.depth ∈ [1, 2] ∧
    o.firstBit ≤ 31 ∧ o.nozzle ≤ 639 ∧ (1 ≤ o.width ∧ o.width ≤ 640 ∧ o.nozzle + o.width ≤ 640) ∧
    o.rowFirst ≤ 65534 ∧ (1 ≤ o.rows ∧ o.rowFirst + o.rows ≤ count) := by
  simp [OverlayFields.legal, aligned_iff, and_assoc]

/-! ### An entry read that brings data (R27) -/

/-- The builder at an entry walks it. -/
theorem entryRead_walks {s t : State} {words : List Word} {batch : Bool} (h : s.readEnds .entryRead)
    (task : s.builder.task = .entry) (walk : (s.entryDone batch).walkEntry (Entry.ofWords words) batch = t) :
    exec (.entryReadDone (.data words) batch) s = .next t.rest := by
  rw [exec_entryReadDone h, ← walk]
  simp [State.entryRead, task]

/-- The builder with an IMAGE in hand walks it with its extension. -/
theorem entryRead_pairs {s t : State} {image : Entry} {words : List Word} {batch : Bool} (h : s.readEnds .entryRead)
    (task : s.builder.task = .extension image)
    (walk : (s.entryDone batch).walkPair image (Entry.ofWords words) batch = t) :
    exec (.entryReadDone (.data words) batch) s = .next t.rest := by
  rw [exec_entryReadDone h, ← walk]
  simp [State.entryRead, task]

/-- The builder with a REPEAT_OPEN in hand judges the entry at its CLOSE. -/
theorem entryRead_opens {s t : State} {opened : Entry} {words : List Word} {batch : Bool} (h : s.readEnds .entryRead)
    (task : s.builder.task = .closeSlot opened)
    (walk : (s.entryDone batch).walkOpened opened (Entry.ofWords words) = t) :
    exec (.entryReadDone (.data words) batch) s = .next t.rest := by
  rw [exec_entryReadDone h, ← walk]
  simp [State.entryRead, task]

/-! ### The walk of the kinds, case by case -/

section
variable {s : State} {e : Entry} {batch : Bool}

/-- An entry of no kind, or an OVERLAY_EXT met by itself (R3, R8). -/
theorem walkEntry_alone (kind : e.kind = none ∨ e.kind = some .overlayExt) :
    s.walkEntry e batch = s.faultBuilding .entryIllegal s.builder.index := by
  rcases kind with kind | kind <;> simp [State.walkEntry, kind, State.illegalEntry]

/-- A false entry is passed over (R12). -/
theorem walkEntry_image_false (kind : e.kind = some .image) (single : e.ext = false)
    (c : ¬s.condition e.cond batch = true) :
    s.walkEntry e batch = s.walking .entry (s.builder.index + 1) := by
  simp [State.walkEntry, kind, State.walkImage, single, c, walkAt_eq_walking]

theorem walkEntry_image_illegal (kind : e.kind = some .image) (single : e.ext = false)
    (c : s.condition e.cond batch = true)
    (illegal : e.imageFields.legal = false) : s.walkEntry e batch = s.faultBuilding .entryIllegal s.builder.index := by
  simp [State.walkEntry, kind, State.walkImage, single, c, State.startImage, illegal, State.illegalEntry]

theorem walkEntry_image_legal (kind : e.kind = some .image) (single : e.ext = false)
    (c : s.condition e.cond batch = true)
    (legal : e.imageFields.legal = true) :
    s.walkEntry e batch = s.walking (.image e.imageFields none 0) s.builder.index := by
  simp [State.walkEntry, kind, State.walkImage, single, c, State.startImage, legal, walkOn_eq_walking]

/-- An IMAGE with EXT in the last entry has no slot for its extension (R7). -/
theorem walkEntry_image_unpaired (kind : e.kind = some .image) (ext : e.ext = true)
    (last : s.builder.index + 1 = s.entries) :
    s.walkEntry e batch = s.faultBuilding .entryIllegal s.builder.index := by
  simp [State.walkEntry, kind, State.walkImage, ext, last, State.illegalEntry]

theorem walkEntry_image_paired (kind : e.kind = some .image) (ext : e.ext = true)
    (more : s.builder.index + 1 ≠ s.entries) :
    s.walkEntry e batch = s.walking (.extension e) s.builder.index := by
  simp [State.walkEntry, kind, State.walkImage, ext, more, walkOn_eq_walking]

theorem walkEntry_blank_false (kind : e.kind = some .blank) (c : ¬s.condition e.cond batch = true) :
    s.walkEntry e batch = s.walking .entry (s.builder.index + 1) := by
  simp [State.walkEntry, kind, State.walkBlank, c, walkAt_eq_walking]

theorem walkEntry_blank_empty (kind : e.kind = some .blank) (c : s.condition e.cond batch = true)
    (count : e.count = 0) :
    s.walkEntry e batch = s.faultBuilding .entryIllegal s.builder.index := by
  simp [State.walkEntry, kind, State.walkBlank, c, count, State.illegalEntry]

theorem walkEntry_blank_true (kind : e.kind = some .blank) (c : s.condition e.cond batch = true) (count : e.count ≠ 0) :
    s.walkEntry e batch = s.walking (.blank 0 e.count) s.builder.index := by
  simp [State.walkEntry, kind, State.walkBlank, c, count, walkOn_eq_walking]

theorem walkEntry_waitMark_false (kind : e.kind = some .waitMark) (c : ¬s.condition e.cond batch = true) :
    s.walkEntry e batch = s.walking .entry (s.builder.index + 1) := by
  simp [State.walkEntry, kind, State.walkWaitMark, c, walkAt_eq_walking]

theorem walkEntry_waitMark_true (kind : e.kind = some .waitMark) (c : s.condition e.cond batch = true) :
    s.walkEntry e batch = s.walking .hold s.builder.index := by
  simp [State.walkEntry, kind, State.walkWaitMark, c, walkOn_eq_walking]

theorem walkEntry_table_false (kind : e.kind = some .table) (c : ¬s.condition e.cond batch = true) :
    s.walkEntry e batch = s.walking .entry (s.builder.index + 1) := by
  simp [State.walkEntry, kind, State.walkTable, c, walkAt_eq_walking]

theorem walkEntry_table_misaligned (kind : e.kind = some .table) (c : s.condition e.cond batch = true)
    (src : e.src.toNat % 4 ≠ 0) :
    s.walkEntry e batch = s.faultBuilding .entryIllegal s.builder.index := by
  simp [State.walkEntry, kind, State.walkTable, c, aligned, src, State.illegalEntry]

theorem walkEntry_table_true (kind : e.kind = some .table) (c : s.condition e.cond batch = true)
    (src : e.src.toNat % 4 = 0) :
    s.walkEntry e batch = s.walking (.table e.src) s.builder.index := by
  simp [State.walkEntry, kind, State.walkTable, c, aligned, src, walkOn_eq_walking]

theorem walkEntry_end_false (kind : e.kind = some .finish) (c : ¬s.condition e.cond batch = true) :
    s.walkEntry e batch = s.walking .entry (s.builder.index + 1) := by
  simp [State.walkEntry, kind, State.walkEnd, c, walkAt_eq_walking]

theorem walkEntry_end_closed (kind : e.kind = some .finish) (c : s.condition e.cond batch = true)
    (closed : s.builder.stack = []) :
    s.walkEntry e batch = s.walking .finish s.builder.index := by
  simp [State.walkEntry, kind, State.walkEnd, c, State.endWalk, closed, walkOn_eq_walking]

/-- An END with a repeat open (R21). -/
theorem walkEntry_end_open (kind : e.kind = some .finish) (c : s.condition e.cond batch = true)
    (opened : s.builder.stack ≠ []) :
    s.walkEntry e batch = s.faultBuilding .repeatUnmatched s.builder.index := by
  simp [State.walkEntry, kind, State.walkEnd, c, State.endWalk, opened]

end

/-! ### An IMAGE with its extension, check by check (R7, R8) -/

section
variable {s : State} {image ext : Entry} {batch : Bool}

theorem walkPair_unpaired (kind : ext.kind ≠ some .overlayExt) :
    s.walkPair image ext batch = s.faultBuilding .entryIllegal s.builder.index := by
  simp [State.walkPair, kind, State.illegalEntry]

variable (kind : ext.kind = some .overlayExt)
include kind

theorem walkPair_conditional (cond : ext.cond ≠ .always) :
    s.walkPair image ext batch = s.faultBuilding .entryIllegal (s.builder.index + 1) := by
  simp [State.walkPair, kind, cond, State.illegalEntry]

variable (cond : ext.cond = .always)
include cond

theorem walkPair_false (c : s.condition image.cond batch = false) :
    s.walkPair image ext batch = s.walking .entry (s.builder.index + 2) := by
  simp [State.walkPair, kind, cond, c, walkAt_eq_walking]

variable (c : s.condition image.cond batch = true)
include c

theorem walkPair_illegalImage (illegal : image.imageFields.legal = false) :
    s.walkPair image ext batch = s.faultBuilding .entryIllegal s.builder.index := by
  simp [State.walkPair, kind, cond, c, illegal, State.illegalEntry]

variable (legal : image.imageFields.legal = true)
include legal

theorem walkPair_illegalOverlay (illegal : ext.overlayFields.legal image.count = false) :
    s.walkPair image ext batch = s.faultBuilding .entryIllegal (s.builder.index + 1) := by
  simp [State.walkPair, kind, cond, c, legal, illegal, State.illegalEntry]

theorem walkPair_legal (overlay : ext.overlayFields.legal image.count = true) :
    s.walkPair image ext batch =
      s.walking (.image image.imageFields (some ext.overlayFields) 0) s.builder.index := by
  simp [State.walkPair, kind, cond, c, legal, overlay, walkOn_eq_walking]

end

/-- Settles O38: the formats and ranges, then each kind by its walk, then the pair of an IMAGE with its extension. -/
theorem entriesWalked : Obligations.EntriesWalked := by
  refine ⟨entry_ofWords, fun e => ⟨kind_code _, rfl, rfl, rfl⟩, imageFields_legal_iff, overlayFields_legal_iff,
    fun s words batch h task => ?_, fun s image words batch h task => ?_⟩
  · have walked {t} := @entryRead_walks s t words batch h task
    refine ⟨?_, fun k single => ⟨?_, ?_, ?_⟩, fun k ext => ⟨?_, ?_⟩, fun k => ⟨?_, ?_, ?_⟩, fun k => ⟨?_, ?_⟩,
      fun k => ⟨?_, ?_, ?_⟩, fun k => ⟨?_, ?_, ?_⟩⟩
    · exact fun k => walked (walkEntry_alone k)
    · exact fun c => walked (walkEntry_image_false k single c)
    · exact fun c illegal => walked (walkEntry_image_illegal k single c illegal)
    · exact fun c legal => walked (walkEntry_image_legal k single c legal)
    · exact fun last => walked (walkEntry_image_unpaired k ext last)
    · exact fun more => walked (walkEntry_image_paired k ext more)
    · exact fun c => walked (walkEntry_blank_false k c)
    · exact fun c count => walked (walkEntry_blank_empty k c count)
    · exact fun c count => walked (walkEntry_blank_true k c count)
    · exact fun c => walked (walkEntry_waitMark_false k c)
    · exact fun c => walked (walkEntry_waitMark_true k c)
    · exact fun c => walked (walkEntry_table_false k c)
    · exact fun c src => walked (walkEntry_table_misaligned k c src)
    · exact fun c src => walked (walkEntry_table_true k c src)
    · exact fun c => walked (walkEntry_end_false k c)
    · exact fun c closed => walked (walkEntry_end_closed k c closed)
    · exact fun c opened => walked (walkEntry_end_open k c opened)
  · have paired {t} := @entryRead_pairs s t image words batch h task
    refine ⟨fun kind => paired (walkPair_unpaired kind), fun kind =>
      ⟨fun cond => paired (walkPair_conditional kind cond), fun cond =>
        ⟨fun c => paired (walkPair_false kind cond c), fun c =>
          ⟨fun illegal => paired (walkPair_illegalImage kind cond c illegal), fun legal =>
            ⟨fun illegal => paired (walkPair_illegalOverlay kind cond c legal illegal),
              fun overlay => paired (walkPair_legal kind cond c legal overlay)⟩⟩⟩⟩⟩

end Sys2Proof.Machine

/-! ## O39: the repeats -/

namespace Sys2Proof.Machine

/-- The kinds of a repeat's entries, by the four bits that hold them (TABLE 1-1). -/
theorem repeatKind_iff (e : Entry) :
    (e.kind = some .repeatOpen ↔ e.w0.extractLsb' 0 4 = 6#4) ∧
    (e.kind = some .repeatClose ↔ e.w0.extractLsb' 0 4 = 7#4) ∧
    (e.kind = some .repeatExit ↔ e.w0.extractLsb' 0 4 = 8#4) := by
  have kind : e.kind = _ := kind_code (e.w0.extractLsb' 0 4)
  rw [kind]
  generalize e.w0.extractLsb' 0 4 = code
  revert code
  decide

/-- The walk that goes on at an index with a new stack. -/
theorem walkAtWith_eq (s : State) (i : Nat) (stack : List RepeatContext) : s.walkAtWith i stack =
    { s with builder := { s.builder with state := .walking, task := .entry, index := i, stack := stack } } := rfl

/-! ### REPEAT_OPEN (R18) -/

section
variable {s : State} {e : Entry} {batch : Bool} (kind : e.kind = some .repeatOpen)
include kind

theorem walkEntry_open_conditional (cond : e.cond ≠ .always) :
    s.walkEntry e batch = s.faultBuilding .entryIllegal s.builder.index := by
  simp [State.walkEntry, kind, State.walkOpen, cond, State.illegalEntry]

variable (cond : e.cond = .always)
include cond

/-- CLOSE lies ahead of the REPEAT_OPEN and is an entry of the job. -/
theorem walkEntry_open_unmatched (out : ¬(s.builder.index < e.closeIndex ∧ e.closeIndex < s.entries)) :
    s.walkEntry e batch = s.faultBuilding .repeatUnmatched s.builder.index := by
  simp only [State.walkEntry, kind, State.walkOpen, cond, ne_eq, not_true, if_false, if_pos out]

theorem walkEntry_open_ahead (ahead : s.builder.index < e.closeIndex ∧ e.closeIndex < s.entries) :
    s.walkEntry e batch = s.walking (.closeSlot e) s.builder.index := by
  simp [State.walkEntry, kind, State.walkOpen, cond, ahead, walkOn_eq_walking]

end

/-! ### REPEAT_OPEN with the entry at its CLOSE (R18, steps 3 to 7) -/

theorem insideTop_iff (stack : List RepeatContext) (close : Nat) :
    insideTop stack close = true ↔ ∀ c below, stack = c :: below → close < c.closeIndex := by
  cases stack <;> simp [insideTop]

/-- A repeat with a pass to make. -/
theorem has_pass {opened : Entry} (passes : opened.count ≠ 0 ∨ opened.forever = true) :
    ¬(opened.count = 0 ∧ opened.forever = false) := by
  rintro ⟨count, counted⟩
  simp [count, counted] at passes

section
variable {s : State} {opened close : Entry}

theorem walkOpened_noClose (kind : close.kind ≠ some .repeatClose) :
    s.walkOpened opened close = s.faultBuilding .repeatUnmatched s.builder.index := by
  simp [State.walkOpened, kind]

variable (kind : close.kind = some .repeatClose)
include kind

theorem walkOpened_outside {c : RepeatContext} {below} (top : s.builder.stack = c :: below)
    (out : c.closeIndex ≤ opened.closeIndex) :
    s.walkOpened opened close = s.faultBuilding .repeatUnmatched s.builder.index := by
  have outside : insideTop s.builder.stack opened.closeIndex = false := by simpa [top, insideTop] using out
  simp [State.walkOpened, kind, outside]

variable (inside : ∀ c below, s.builder.stack = c :: below → opened.closeIndex < c.closeIndex)
include inside

/-- A repeat of no pass is passed over with its body. -/
theorem walkOpened_none (count : opened.count = 0) (counted : opened.forever = false) :
    s.walkOpened opened close = s.walking .entry (opened.closeIndex + 1) := by
  have strictly := (insideTop_iff _ _).mpr inside
  simp [State.walkOpened, kind, strictly, count, counted, walkAt_eq_walking]

variable (passes : opened.count ≠ 0 ∨ opened.forever = true)
include passes

theorem walkOpened_deep (full : 4 ≤ s.builder.stack.length) :
    s.walkOpened opened close = s.faultBuilding .repeatDepth s.builder.index := by
  have strictly := (insideTop_iff _ _).mpr inside
  simp [State.walkOpened, kind, strictly, has_pass passes, full]

theorem walkOpened_pushes (room : s.builder.stack.length < 4) : s.walkOpened opened close =
    s.walkAtWith (s.builder.index + 1) (opened.newContext s.builder.index :: s.builder.stack) := by
  have strictly := (insideTop_iff _ _).mpr inside
  simp [State.walkOpened, kind, strictly, has_pass passes, Nat.not_le.mpr room]

end

/-! ### REPEAT_CLOSE (R19) -/

@[simp] theorem countPass_builder (s : State) (below) : (s.countPass below).builder = s.builder := by
  unfold State.countPass
  split <;> simp

theorem goesOn_iff (c : RepeatContext) : c.goesOn = true ↔ ∀ n, c.count = some n → c.pass < n := by
  unfold RepeatContext.goesOn
  split <;> simp_all

section
variable {s : State} {e : Entry} {batch : Bool} (kind : e.kind = some .repeatClose)
include kind

theorem walkEntry_close_conditional (cond : e.cond ≠ .always) :
    s.walkEntry e batch = s.faultBuilding .entryIllegal s.builder.index := by
  simp [State.walkEntry, kind, State.walkClose, cond, State.illegalEntry]

variable (cond : e.cond = .always)
include cond

theorem walkEntry_close_alone (empty : s.builder.stack = []) :
    s.walkEntry e batch = s.faultBuilding .repeatUnmatched s.builder.index := by
  simp [State.walkEntry, kind, State.walkClose, cond, empty]

variable {c : RepeatContext} {below : List RepeatContext} (top : s.builder.stack = c :: below)
include top

theorem walkEntry_close_unmatched (other : c.closeIndex ≠ s.builder.index) :
    s.walkEntry e batch = s.faultBuilding .repeatUnmatched s.builder.index := by
  simp [State.walkEntry, kind, State.walkClose, cond, top, other]

variable (own : c.closeIndex = s.builder.index)
include own

/-- A FOREVER repeat whose pass emitted nothing would never end. -/
theorem walkEntry_close_empty (forever : c.count = none) (silent : c.emitted = false) :
    s.walkEntry e batch = s.faultBuilding .emptyPass s.builder.index := by
  simp [State.walkEntry, kind, State.walkClose, cond, top, own, forever, silent]

/-- The last pass is over, and the walk goes on behind the REPEAT_CLOSE. -/
theorem walkEntry_close_last {n : Nat} (count : c.count = some n) (last : n ≤ c.pass) : s.walkEntry e batch =
    { s.countPass below with builder := { s.builder with
        state := .walking, task := .entry, index := s.builder.index + 1, stack := below } } := by
  have ended : c.goesOn = false := by simp [RepeatContext.goesOn, count, last]
  simp [State.walkEntry, kind, State.walkClose, cond, top, own, count, ended, walkAtWith_eq]

/-- Another pass begins behind the REPEAT_OPEN. -/
theorem walkEntry_close_again (progress : c.count ≠ none ∨ c.emitted = true)
    (more : ∀ n, c.count = some n → c.pass < n) : s.walkEntry e batch =
    { s.countPass below with builder := { s.builder with
        state := .walking
        task := .entry
        index := c.openIndex + 1
        stack := { c with pass := nextPass c.pass, emitted := false } :: below } } := by
  have pass : ¬(c.count = none ∧ c.emitted = false) := by
    rintro ⟨forever, silent⟩
    simp [forever, silent] at progress
  have on := (goesOn_iff c).mpr more
  simp [State.walkEntry, kind, State.walkClose, cond, top, own, pass, on, walkAtWith_eq]

end

/-! ### REPEAT_EXIT (R20) -/

section
variable {s : State} {e : Entry} {batch : Bool} (kind : e.kind = some .repeatExit)
include kind

theorem walkEntry_exit_alone (empty : s.builder.stack = []) :
    s.walkEntry e batch = s.faultBuilding .repeatUnmatched s.builder.index := by
  simp [State.walkEntry, kind, State.walkExit, empty]

variable {c : RepeatContext} {below : List RepeatContext} (top : s.builder.stack = c :: below)
include top

theorem walkEntry_exit_true (leave : s.condition e.cond batch = true) :
    s.walkEntry e batch = s.walkAtWith (c.closeIndex + 1) below := by
  simp [State.walkEntry, kind, State.walkExit, top, leave]

theorem walkEntry_exit_false (stay : s.condition e.cond batch = false) :
    s.walkEntry e batch = s.walking .entry (s.builder.index + 1) := by
  simp [State.walkEntry, kind, State.walkExit, top, stay, walkAt_eq_walking]

end

/-- Settles O39: the formats, then each entry of a repeat by its walk. -/
theorem repeatsWalked : Obligations.RepeatsWalked := by
  refine ⟨entry_ofWords, fun e => ?_, fun s words batch h => ?_⟩
  · obtain ⟨isOpen, isClose, isExit⟩ := repeatKind_iff e
    exact ⟨isOpen, isClose, isExit, rfl, rfl, rfl⟩
  · have walked {t} := fun task => @entryRead_walks s t words batch h task
    refine ⟨fun task k => ?atOpen, fun opened task => ?atCloseSlot, fun task k => ?atClose, fun task k => ?atExit⟩
    case atOpen =>
      refine ⟨?_, ?_, ?_⟩
      · exact fun cond => walked task (walkEntry_open_conditional k cond)
      · exact fun cond out => walked task (walkEntry_open_unmatched k cond out)
      · exact fun cond ahead => walked task (walkEntry_open_ahead k cond ahead)
    case atCloseSlot =>
      have opens {t} := @entryRead_opens s t opened words batch h task
      refine ⟨?_, fun k => ⟨?_, fun inside => ⟨?_, fun passes => ⟨?_, ?_⟩⟩⟩⟩
      · exact fun k => opens (walkOpened_noClose k)
      · exact fun c below top out => opens (walkOpened_outside k top out)
      · exact fun count counted => opens (walkOpened_none k inside count counted)
      · exact fun full => opens (walkOpened_deep k inside passes full)
      · exact fun room => opens (walkOpened_pushes k inside passes room)
    case atClose =>
      refine ⟨?_, fun cond => ⟨?_, fun c below top => ⟨?_, fun own => ⟨?_, fun progress => ⟨?_, ?_⟩⟩⟩⟩⟩
      · exact fun cond => walked task (walkEntry_close_conditional k cond)
      · exact fun empty => walked task (walkEntry_close_alone k cond empty)
      · exact fun other => walked task (walkEntry_close_unmatched k cond top other)
      · exact fun forever silent => walked task (walkEntry_close_empty k cond top own forever silent)
      · exact fun more => walked task (walkEntry_close_again k cond top own progress more)
      · exact fun n count last => walked task (walkEntry_close_last k cond top own count last)
    case atExit =>
      refine ⟨?_, fun c below top => ⟨?_, ?_⟩⟩
      · exact fun empty => walked task (walkEntry_exit_alone k empty)
      · exact fun leave => walked task (walkEntry_exit_true (s := s.entryDone batch) k top leave)
      · exact fun stay => walked task (walkEntry_exit_false k top stay)

end Sys2Proof.Machine

/-! ## O36: what the builder emits, and what it does next -/

namespace Sys2Proof.Machine

/-! ### An item that enters the queue (R15, R28, R47) -/

/-- With room in the queue an emitted item enters it at once. -/
theorem emit_room {s : State} (room : s.queue.length < 8) (it : Item) :
    s.emit it = (s.enqueue it).entered s.builder.task := if_pos room

/-- With the queue full the builder holds its item in WAIT_ROOM. -/
theorem emit_full {s : State} (full : 8 ≤ s.queue.length) (it : Item) :
    s.emit it = { s with builder := { s.builder with state := .waitRoom, held := some it } } :=
  if_neg (Nat.not_lt.mpr full)

theorem enqueue_queue (s : State) (it : Item) : (s.enqueue it).queue = s.queue ++ [it] := by simp [State.enqueue]

theorem enqueue_builder (s : State) (it : Item) : (s.enqueue it).builder =
    { s.builder with stack := s.builder.stack.map fun c => { c with emitted := true }, held := none } := by
  simp [State.enqueue, markEmitted]

/-- A ROW counts in the job it is tagged with. -/
theorem enqueue_row_job (s : State) (x : SlotId) (row : Row) : (s.enqueue (.row x row)).job x =
    (s.job x).map fun j => { j with account := { j.account with emitted := j.account.emitted + 1 } } := by
  have counted := job_mapJob s x x fun j => { j with account := { j.account with emitted := j.account.emitted + 1 } }
  rwa [if_pos rfl] at counted

/-- An item that enters the queue frees no slot. -/
theorem enqueue_job_isSome (s : State) (it : Item) (x : SlotId) :
    ((s.enqueue it).job x).isSome = (s.job x).isSome := by
  cases it with
  | row y row =>
    by_cases h : x = y
    · subst h
      rw [enqueue_row_job, Option.isSome_map]
    · have other := job_mapJob s y x fun j => { j with account := { j.account with emitted := j.account.emitted + 1 } }
      rw [if_neg h] at other
      exact congrArg Option.isSome other
  | hold | swap | setup | finish => rfl

/-! ### Going on behind an item (R6, R9, R17, R21, R41) -/

/-- The end of the building makes the job BUILT, and no other change to a job. -/
theorem endBuilding_job (s : State) (y : SlotId) : s.endBuilding.job y =
    if s.builder.job = some y then (s.job y).map fun j => { j with phase := .built } else s.job y := by
  unfold State.endBuilding
  split
  · rename_i e
    simp [e, State.oweLook, State.job]
  · rename_i x e
    have built := job_mapJob { s with builder := { Builder.reset with orphan := s.builder.orphan } } x y
      fun j => { j with phase := .built }
    refine Eq.trans built ?_
    by_cases h : y = x
    · subst h
      simp [e, State.job]
    · have other : ¬x = y := fun k => h k.symm
      simp [e, h, other, State.job]

theorem endBuilding_builder (s : State) :
    s.endBuilding.builder = ⟨.free, none, 0, [], .none, none, none, s.builder.orphan⟩ := by
  unfold State.endBuilding
  split <;> simp [Builder.reset]

/-- What follows an item leaves the account of every job as it is. -/
theorem entered_account (s : State) (task : BuildTask) {y : SlotId} {j : Job} (h : s.job y = some j) :
    ∃ j', (s.entered task).job y = some j' ∧ j'.account = j.account := by
  by_cases last : task = .finish
  · subst last
    refine ⟨if s.builder.job = some y then { j with phase := .built } else j, ?_, by split <;> rfl⟩
    rw [State.entered, endBuilding_job, h]
    split <;> rfl
  · refine ⟨j, ?_, rfl⟩
    rw [← h]
    refine job_congr ?_ y
    cases task with
    | finish => exact absurd rfl last
    | image | overlay | blank => simp only [State.entered]; split <;> rfl
    | _ => rfl

/-- A ROW that enters the queue joins the emitted rows of its job, whatever follows it (R47). -/
theorem entered_row_emitted {s : State} {x : SlotId} {j : Job} (held : s.job x = some j) (row) (task : BuildTask) :
    ∃ j', ((s.enqueue (.row x row)).entered task).job x = some j' ∧ j'.account.emitted = j.account.emitted + 1 := by
  obtain ⟨j', now, account⟩ := entered_account (s.enqueue (.row x row)) task (y := x) (by
    rw [enqueue_row_job, held]
    rfl)
  exact ⟨j', now, by rw [account]⟩

/-! ### What the builder in WALKING does next -/

/-- With nothing to take at the head and no trigger due, the builder in WALKING acts on its task (log 24). -/
theorem ownStep_walking {s : State} {x : SlotId} (head : s.tryHead = none) (divider : s.tryDivider = none)
    (state : s.builder.state = .walking) (job : s.builder.job = some x) (task : s.builder.task ≠ .none) :
    s.ownStep = some (s.actOn x s.builder.task) := by
  have held : s.tryHeld = none := by simp [State.tryHeld, state]
  have stage : s.tryStage = none := by simp [State.tryStage, state]
  have walk : s.tryWalk = some (s.actOn x s.builder.task) := by simp [State.tryWalk, state, job, task]
  simp [State.ownStep, head, divider, held, stage, walk]

/-- A read of the builder is asked for as R26 and R27 say. -/
theorem requestRead_eq_readAsked (s : State) {kind : TxKind} (own : kind.requester = .builder) (a n) :
    s.requestRead kind a n = s.readAsked kind a n := by
  simp only [State.requestRead, State.readAsked, State.request, Transaction.requester, own]
  rfl

section
variable {s : State} {x : SlotId} {j : Job} (job : s.builder.job = some x) (held : s.job x = some j)
include job held

theorem entries_of_job : s.entries = j.entries := by simp [State.entries, State.buildingJob, job, held]

theorem bodyAddress_of_job (offset : Nat) : s.bodyAddress offset = j.record + BitVec.ofNat 32 (48 + offset) := by
  simp [State.bodyAddress, State.buildingJob, job, held]

theorem requestEntry_of_job (i : Nat) :
    s.requestEntry i = s.readAsked .entryRead (j.record + BitVec.ofNat 32 (48 + 32 * i)) 8 := by
  rw [State.requestEntry, requestRead_eq_readAsked s rfl, bodyAddress_of_job job held]

end

/-- Past the last entry the walk ends with the END, when no repeat is open (R21). -/
theorem endWalk_closed {s : State} (closed : s.builder.stack = []) (i : Nat) :
    s.endWalk i = s.walking .finish s.builder.index := by
  simp [State.endWalk, closed, walkOn_eq_walking]

/-- An open repeat at the end of the walk is a fault at OPEN of the top context (R21). -/
theorem endWalk_open {s : State} {x : SlotId} {c : RepeatContext} {below : List RepeatContext}
    (job : s.builder.job = some x) (top : s.builder.stack = c :: below) :
    s.endWalk s.builder.topOpen = s.takeFault x .repeatUnmatched c.openIndex := by
  simp [State.endWalk, top, State.faultBuilding, job, Builder.topOpen]

theorem any_isSwap_iff (q : List Item) : q.any Item.isSwap = true ↔ ∃ y, Item.swap y ∈ q := by
  rw [List.any_eq_true]
  constructor
  · rintro ⟨it, mem, swap⟩
    cases it with
    | swap y => exact ⟨y, mem⟩
    | row | hold | setup | finish => cases swap
  · rintro ⟨y, mem⟩
    exact ⟨_, mem, rfl⟩

theorem any_isSetup_iff (q : List Item) : q.any Item.isSetup = true ↔ ∃ y, Item.setup y ∈ q := by
  rw [List.any_eq_true]
  constructor
  · rintro ⟨it, mem, setup⟩
    cases it with
    | setup y => exact ⟨y, mem⟩
    | row | hold | swap | finish => cases setup
  · rintro ⟨y, mem⟩
    exact ⟨_, mem, rfl⟩

/-- A table waits for the SWAP that stands in the queue (R37). -/
theorem startTable_waits {s : State} (swap : ∃ y, Item.swap y ∈ s.queue) (src : Word) :
    s.startTable src = { s with builder := { s.builder with state := .waitStage } } :=
  if_pos ((any_isSwap_iff _).mpr swap)

theorem startTable_reads {s : State} (noSwap : ∀ y, Item.swap y ∉ s.queue) (src : Word) :
    s.startTable src = s.readAsked .tableRead src 5 := by
  have none : ¬s.queue.any Item.isSwap = true := fun h => ((any_isSwap_iff _).mp h).elim noSwap
  rw [State.startTable, if_neg none, requestRead_eq_readAsked s rfl]

/-- A setup build waits for the SETUP that stands in the queue (R39). -/
theorem startSetupBlock_waits {s : State} (setup : ∃ y, Item.setup y ∈ s.queue) :
    s.startSetupBlock = { s with builder := { s.builder with state := .waitStage } } :=
  if_pos ((any_isSetup_iff _).mpr setup)

theorem startSetupBlock_reads {s : State} {x : SlotId} {j : Job} (job : s.builder.job = some x)
    (held : s.job x = some j) (noSetup : ∀ y, Item.setup y ∉ s.queue) :
    s.startSetupBlock = s.readAsked .setupBlockRead (j.record + 48#32) 16 := by
  have none : ¬s.queue.any Item.isSetup = true := fun h => ((any_isSetup_iff _).mp h).elim noSetup
  rw [State.startSetupBlock, if_neg none, requestRead_eq_readAsked s rfl, bodyAddress_of_job job held]

/-- Settles O36: an item enters the queue and the builder goes on behind it; in WALKING it acts on its task. -/
theorem itemEmitted : Obligations.ItemEmitted := by
  refine ⟨fun s it => ⟨fun room => ?emitted, fun full => emit_full full it⟩,
    fun s x j head divider state job held => ?walks⟩
  case emitted =>
    rw [emit_room room]
    refine ⟨?_, ?_, ?_, ?_, ?_, ?_, ?_, ?_, ?_⟩
    · simp [enqueue_queue]
    · intro row isRow j held
      generalize it.slot = x at isRow held ⊢
      subst isRow
      exact entered_row_emitted held row _
    · intro f o row task
      refine ⟨fun more => ?_, fun last => ?_⟩
      · simp [State.entered, task, more, State.walkOn, enqueue_builder]
      · cases o <;> simp [State.entered, task, Nat.not_lt.mpr last, State.walkAt, enqueue_builder]
    · intro f o row dots task
      refine ⟨fun more => ?_, fun last => ?_⟩
      · simp [State.entered, task, more, State.walkOn, enqueue_builder]
      · simp [State.entered, task, Nat.not_lt.mpr last, State.walkAt, enqueue_builder]
    · intro row count task
      refine ⟨fun more => ?_, fun last => ?_⟩
      · simp [State.entered, task, more, State.walkOn, enqueue_builder]
      · simp [State.entered, task, Nat.not_lt.mpr last, State.walkAt, enqueue_builder]
    · intro task
      simp [State.entered, task, State.walkAt, enqueue_builder]
    · intro src task
      simp [State.entered, task, State.walkAt, enqueue_builder]
    · intro task
      simp [State.entered, task, State.walkOn, enqueue_builder]
    · intro x task job
      rw [task]
      refine ⟨?_, rfl, fun j held => ?_⟩
      · rw [State.entered, endBuilding_builder, enqueue_builder]
      · obtain ⟨j', queued⟩ := Option.isSome_iff_exists.mp
          ((enqueue_job_isSome s it x).trans (by rw [held]; rfl))
        refine ⟨{ j' with phase := .built }, ?_, rfl⟩
        rw [State.entered, endBuilding_job, enqueue_builder, if_pos job, queued]
        rfl
  case walks =>
    have acts {task t} (has : s.builder.task = task) (busy : task ≠ .none) (act : s.actOn x task = t) :
        s.ownStep = some t := by
      rw [ownStep_walking head divider state job (has ▸ busy), has, act]
    have entries := entries_of_job job held
    refine ⟨entries, fun task => ⟨?_, ?_, ?_⟩, ?_, ?_, ?_, ?_, fun src task => ⟨?_, ?_⟩, ?_, fun task => ⟨?_, ?_⟩,
      ?_, ?_⟩
    · intro more
      refine acts task nofun ?_
      rw [State.actOn, entries, if_neg (Nat.not_le.mpr more), requestEntry_of_job job held]
    · intro past closed
      refine acts task nofun ?_
      rw [State.actOn, entries, if_pos past, endWalk_closed closed]
    · intro c below past top
      refine acts task nofun ?_
      rw [State.actOn, entries, if_pos past, endWalk_open job top]
    · exact fun image task => acts task nofun (requestEntry_of_job job held _)
    · exact fun opened task => acts task nofun (requestEntry_of_job job held _)
    · exact fun row count task => acts task nofun rfl
    · exact fun task => acts task nofun rfl
    · exact fun swap => acts task nofun (startTable_waits swap src)
    · exact fun noSwap => acts task nofun (startTable_reads noSwap src)
    · exact fun task => acts task nofun rfl
    · exact fun setup => acts task nofun (startSetupBlock_waits setup)
    · exact fun noSetup => acts task nofun (startSetupBlock_reads job held noSetup)
    · exact fun p task => acts task nofun (requestRead_eq_readAsked s rfl _ _)
    · exact fun task => acts task nofun rfl

end Sys2Proof.Machine

/-! ## O35: the pixels of a row read -/

namespace Sys2Proof.Machine

/-- Bit `b` of the string stands in word `b / 32` of the read, with 0 behind the last word (R30). -/
theorem rowString_testBit (words : List Word) (b : Nat) :
    (rowString words).testBit b = (wordAt words (b / 32)).getLsbD (b % 32) := by
  induction words generalizing b with
  | nil => simp [rowString, wordAt]
  | cons w rest ih =>
    have split : rowString (w :: rest) = 2 ^ 32 * rowString rest + w.toNat := Nat.add_comm ..
    rw [split, Nat.testBit_two_pow_mul_add _ w.isLt]
    by_cases first : b < 32
    · rw [if_pos first, Nat.div_eq_of_lt first, Nat.mod_eq_of_lt first]
      rfl
    · have behind : b / 32 = (b - 32) / 32 + 1 := by omega
      have place : b % 32 = (b - 32) % 32 := by omega
      rw [if_neg first, ih, behind, place]
      rfl

/-- Settles O35: a pixel is DEPTH bits of the string, counted from its first. -/
theorem pixelBits : Obligations.PixelBits := by
  refine ⟨fun words firstBit depth i => Nat.mod_lt _ (Nat.two_pow_pos depth),
    fun words firstBit depth i bit inside => ?_⟩
  rw [pixelAt, Nat.testBit_mod_two_pow, Nat.testBit_shiftRight, rowString_testBit]
  simp [inside]

end Sys2Proof.Machine

/-! ## O40: image rows and overlay rows -/

namespace Sys2Proof.Machine

/-! ### The dots of a row (R31 to R33) -/

theorem inBand_iff (first width n : Nat) : inBand first width n = true ↔ first ≤ n ∧ n < first + width := by
  simp [inBand]

theorem dots_getElem? (f : ImageFields) (words : List Word) {n : Nat} (h : n < 640) :
    (f.dots words)[n]? = some
      (if f.nozzle ≤ n ∧ n < f.nozzle + f.width then
        ⟨levelOf f.depth (pixelAt (rowString words) f.firstBit f.depth (n - f.nozzle)), 0#2, false⟩
      else ⟨0#4, 0#2, false⟩) := by
  simp [ImageFields.dots, List.getElem?_range h, inBand_iff, Dot.blank]

theorem lay_getElem? (f : OverlayFields) (opaqueFlag : Bool) (words : List Word) {dots : List Dot} {n : Nat} {d : Dot}
    (h : dots[n]? = some d) : (f.lay opaqueFlag words dots)[n]? = some
      (if f.nozzle ≤ n ∧ n < f.nozzle + f.width then
        ⟨d.level, overlayOf f.depth (pixelAt (rowString words) f.firstBit f.depth (n - f.nozzle)), opaqueFlag⟩
      else d) := by
  simp [OverlayFields.lay, h, inBand_iff]

/-! ### A row read that brings data (R29, R32, R34) -/

@[simp] theorem readDone_job (s : State) : s.readDone.builder.job = s.builder.job := rfl
@[simp] theorem readDone_task (s : State) : s.readDone.builder.task = s.builder.task := rfl
@[simp] theorem readDone_index (s : State) : s.readDone.builder.index = s.builder.index := rfl

theorem carries_iff (o : OverlayFields) (r : Nat) :
    o.carries r = true ↔ o.rowFirst ≤ r ∧ r < o.rowFirst + o.rows := by simp [OverlayFields.carries]

theorem emitRow_of_job {s : State} {x : SlotId} (job : s.builder.job = some x) (dots : List Dot) :
    s.emitRow dots = s.emit (.row x ⟨false, dots⟩) := by simp [State.emitRow, job]

section
variable {s : State} {x : SlotId} {f : ImageFields} {r : Nat}

/-- A row of an image without overlay is emitted as it is read. -/
theorem rowRead_plain (job : s.builder.job = some x) (task : s.builder.task = .image f none r) (words : List Word) :
    s.rowRead (.data words) = s.emit (.row x ⟨false, f.dots words⟩) := by
  rw [State.rowRead, task]
  exact emitRow_of_job job _

variable {o : OverlayFields}

/-- So is a row outside the rows of the overlay. -/
theorem rowRead_uncovered (job : s.builder.job = some x) (task : s.builder.task = .image f (some o) r)
    (outside : ¬(o.rowFirst ≤ r ∧ r < o.rowFirst + o.rows)) (words : List Word) :
    s.rowRead (.data words) = s.emit (.row x ⟨false, f.dots words⟩) := by
  simp only [State.rowRead, task, carries_iff, if_neg outside]
  exact emitRow_of_job job _

/-- A row that carries overlay waits for its overlay row. -/
theorem rowRead_overlaid (task : s.builder.task = .image f (some o) r)
    (inside : o.rowFirst ≤ r ∧ r < o.rowFirst + o.rows) (words : List Word) :
    s.rowRead (.data words) = s.walking (.overlay f o r (f.dots words)) s.builder.index := by
  simp only [State.rowRead, task, carries_iff, if_pos inside]
  exact walkOn_eq_walking ..

theorem overlayRead_lays {dots : List Dot} (job : s.builder.job = some x) (task : s.builder.task = .overlay f o r dots)
    (words : List Word) :
    s.overlayRead (.data words) = s.emit (.row x ⟨false, o.lay f.opaqueFlag words dots⟩) := by
  rw [State.overlayRead, task]
  exact emitRow_of_job job _

end

/-! ### The reads of a row (R29, R32) -/

section
variable {s : State} {x : SlotId} {f : ImageFields} {r : Nat} (head : s.tryHead = none) (divider : s.tryDivider = none)
  (state : s.builder.state = .walking) (job : s.builder.job = some x)
include head divider state job

theorem ownStep_image {o} (task : s.builder.task = .image f o r) :
    s.ownStep = some (s.readAsked .rowRead (f.rowAddress r) f.rowWords) := by
  rw [ownStep_walking head divider state job (task ▸ nofun), task]
  exact congrArg some (requestRead_eq_readAsked s rfl _ _)

theorem ownStep_overlay {o dots} (task : s.builder.task = .overlay f o r dots) :
    s.ownStep = some (s.readAsked .overlayRead (o.rowAddress r) o.rowWords) := by
  rw [ownStep_walking head divider state job (task ▸ nofun), task]
  exact congrArg some (requestRead_eq_readAsked s rfl _ _)

end

/-- Settles O40: the reads of a row, what their ends give, and the dots of the row. -/
theorem rowsBuilt : Obligations.RowsBuilt := by
  refine ⟨?requests, fun e => ⟨rfl, rfl⟩, ⟨?imageRow, ?overlayRow, fun f o r => ⟨rfl, rfl, rfl, rfl⟩⟩, ?levels⟩
  case requests =>
    intro s x f r head divider state job
    exact ⟨fun o task => ownStep_image head divider state job task,
      fun o dots task => ownStep_overlay head divider state job task⟩
  case imageRow =>
    intro s words f x r ends job
    rw [exec_rowReadDone ends]
    refine ⟨fun task => ?_, fun o task => ⟨fun outside => ?_, fun inside => ?_⟩⟩
    · rw [rowRead_plain (s := s.readDone) job task]
    · rw [rowRead_uncovered (s := s.readDone) job task outside]
    · rw [rowRead_overlaid (s := s.readDone) task inside, readDone_index]
  case overlayRow =>
    intro s words f o dots x r ends job task
    rw [exec_overlayReadDone ends, overlayRead_lays (s := s.readDone) job task]
  case levels =>
    exact ⟨fun f words n h => dots_getElem? f words h, fun f opaqueFlag words dots n d h => lay_getElem? f _ words h,
      by decide, by decide, fun _ _ => rfl, by decide, fun _ _ => rfl⟩

end Sys2Proof.Machine

/-! ## O41: the table that is read -/

namespace Sys2Proof.Machine

/-- The table goes to the bank that is not active (R37). -/
theorem loadStandby_eq (m : Mapper) (table : List DropEntry) :
    m.loadStandby table = if m.active = .a then { m with bankB := table } else { m with bankA := table } := by
  cases active : m.active <;> simp [Mapper.loadStandby, active]

theorem tableRead_swaps {s : State} {x : SlotId} (job : s.builder.job = some x) (words : List Word) :
    s.tableRead (.data words) =
      State.emit { s with mapper := s.mapper.loadStandby (dropTableOf words) } (.swap x) := by
  simp only [State.tableRead, State.emitSwap, job]

/-- A field that lies within a field of a word is a field of the word. -/
theorem extractLsb'_extractLsb' (w : Word) {lo len lo' len' : Nat} (inside : lo' + len' ≤ len) :
    (w.extractLsb' lo len).extractLsb' lo' len' = w.extractLsb' (lo + lo') len' := by
  ext i hi
  have within : lo' + i < len := by omega
  simp [within, Nat.add_assoc]

/-- An entry is two fields of its byte, and so of the word the byte stands in (TABLE 10-5). -/
theorem dropEntry_ofByte (words : List Word) (k : Nat) : DropEntry.ofByte (byteAt words k) =
    ⟨(wordAt words (k / 4)).extractLsb' (8 * (k % 4)) 2, (wordAt words (k / 4)).extractLsb' (8 * (k % 4) + 2) 2⟩ := by
  rw [DropEntry.ofByte, byteAt, extractLsb'_extractLsb' _ (by decide), extractLsb'_extractLsb' _ (by decide),
    Nat.add_zero]

theorem dropTableOf_getElem? (words : List Word) {k : Nat} (h : k < 20) :
    (dropTableOf words)[k]? = some (DropEntry.ofByte (byteAt words k)) := by
  simp [dropTableOf, List.getElem?_range h]

/-- Settles O41: the standby bank takes the table's entries, and a SWAP follows. -/
theorem tableLoaded : Obligations.TableLoaded := by
  refine ⟨fun s words x ends job => ?_, fun words k h => ?_⟩
  · rw [exec_tableReadDone ends, tableRead_swaps (s := s.readDone) job, loadStandby_eq]
    rfl
  · rw [dropTableOf_getElem? words h, dropEntry_ofByte]

end Sys2Proof.Machine

/-! ## O42: the setup block and its nozzle map -/

namespace Sys2Proof.Machine

/-! ### The setup block (R39, R149) -/

section
variable {s : State} {words : List Word}

theorem setupBlockRead_refused (out : (SetupParams.ofWords words).inRange = false) :
    s.setupBlockRead (.data words) = s.faultBuilding .setupRange 0 := by
  simp [State.setupBlockRead, out]

variable (ranged : (SetupParams.ofWords words).inRange = true)
include ranged

theorem setupBlockRead_staged (alone : (SetupParams.ofWords words).mapAddress = 0#32) :
    s.setupBlockRead (.data words) =
      State.walking { s with staging := .block (SetupParams.ofWords words) } .setupItem s.builder.index := by
  simp [State.setupBlockRead, ranged, alone, State.stage, walkOn_eq_walking]

theorem setupBlockRead_mapped (map : (SetupParams.ofWords words).mapAddress ≠ 0#32) :
    s.setupBlockRead (.data words) = s.walking (.setupMap (SetupParams.ofWords words)) s.builder.index := by
  simp [State.setupBlockRead, ranged, map, walkOn_eq_walking]

end

/-- The ranges of TABLE 8-1. -/
theorem setupParams_inRange_iff (p : SetupParams) : p.inRange = true ↔
    (1 ≤ p.pitch ∧ p.pitch ≤ 4096) ∧ p.pitchTrim ≤ 15 ∧ p.printDelay.toNat ≤ 1048575 ∧ p.markEdge ≤ 1 ∧
    (1 ≤ p.markMin ∧ p.markMin ≤ 255) ∧ (p.markMax = 0 ∨ (p.markMin ≤ p.markMax ∧ p.markMax ≤ 65535)) ∧
    p.markGap ≤ 65535 ∧ p.reverseLimit ≤ 65535 ∧ (1 ≤ p.stillTime ∧ p.stillTime ≤ 10000) ∧ p.tickleIdle ≤ 60000 ∧
    (100 ≤ p.ticklePeriod ∧ p.ticklePeriod ≤ 65535) ∧ p.tickleCadence ∈ [1, 2, 4, 8] ∧ p.warmupTime ≤ 10000 ∧
    p.linkRate ≤ 3 ∧ p.levelMask ≤ 15 ∧ (50 ≤ p.pollInterval ∧ p.pollInterval ≤ 65535) ∧
    p.mapAddress.toNat % 32 = 0 := by
  simp [SetupParams.inRange, aligned_iff, and_assoc, or_assoc]

/-! ### The nozzle map (R40) -/

/-- A map with an entry of 3 is none. -/
theorem nozzleMapOf_illegal {words : List Word} (bad : ∃ n < 640, mapValue words n = 3) :
    nozzleMapOf words = none := by
  obtain ⟨n, inside, three⟩ := bad
  refine if_neg fun all => ?_
  have legal := List.all_eq_true.mp all n (List.mem_range.mpr inside)
  simp [three] at legal

/-- A legal map is the list of its nozzles' states. -/
theorem nozzleMapOf_legal {words : List Word} {map : List NozzleState} (length : map.length = 640)
    (states : ∀ n < 640, (mapValue words n = 0 ∧ map[n]? = some .good) ∨
      (mapValue words n = 1 ∧ map[n]? = some .weak) ∨ (mapValue words n = 2 ∧ map[n]? = some .out)) :
    nozzleMapOf words = some map := by
  have legal : (List.range 640).all (fun n => mapValue words n != 3) = true := by
    refine List.all_eq_true.mpr fun n mem => ?_
    rcases states n (List.mem_range.mp mem) with ⟨value, -⟩ | ⟨value, -⟩ | ⟨value, -⟩ <;> simp [value]
  refine (if_pos legal).trans (congrArg some (List.ext_getElem? fun n => ?_))
  by_cases inside : n < 640
  · rw [List.getElem?_map, List.getElem?_range inside, Option.map_some]
    rcases states n inside with ⟨value, state⟩ | ⟨value, state⟩ | ⟨value, state⟩ <;> simp [value, state, nozzleStateOf]
  · rw [List.getElem?_eq_none (by simpa using inside), List.getElem?_eq_none (by omega)]

section
variable {s : State} {words : List Word} {p : SetupParams} (task : s.builder.task = .setupMap p)
include task

theorem mapRead_illegal (bad : nozzleMapOf words = none) :
    s.mapRead (.data words) = s.faultBuilding .setupRange 0 := by
  simp only [State.mapRead, task, bad]

theorem mapRead_legal {map : List NozzleState} (legal : nozzleMapOf words = some map) : s.mapRead (.data words) =
    State.walking { s with staging := .blockAndMap p map } .setupItem s.builder.index := by
  simp only [State.mapRead, task, legal, State.stage, walkOn_eq_walking]

end

theorem wordAt_of_getElem? {words : List Word} {k : Nat} {w : Word} (h : words[k]? = some w) : wordAt words k = w := by
  simp [wordAt, h]

/-- Settles O42: the block by its ranges and MAP_ADDRESS, then the map by its entries. -/
theorem setupJudgedAndStaged : Obligations.SetupJudgedAndStaged := by
  refine ⟨⟨fun s words ends => ?block, fun s words p ends task => ?map⟩, setupParams_inRange_iff,
    fun words k w h => wordAt_of_getElem? h, fun words n => rfl, fun words => ?fields⟩
  case block =>
    rw [exec_setupBlockReadDone ends]
    refine ⟨fun out => ?_, fun ranged alone => ?_, fun ranged map => ?_⟩
    · rw [setupBlockRead_refused out]
    · rw [setupBlockRead_staged ranged alone, readDone_index]
    · rw [setupBlockRead_mapped ranged map, readDone_index]
  case map =>
    rw [exec_mapReadDone ends]
    refine ⟨fun bad => ?_, fun map length states => ?_⟩
    · rw [mapRead_illegal (s := s.readDone) task (nozzleMapOf_illegal bad)]
    · rw [mapRead_legal (s := s.readDone) task (nozzleMapOf_legal length states), readDone_index]
  case fields => exact ⟨rfl, rfl, rfl, rfl, rfl, rfl, rfl, rfl, rfl, rfl, rfl, rfl, rfl, rfl, rfl, rfl, rfl, rfl⟩

end Sys2Proof.Machine

/-! ## O44: outcomes that are no longer wanted -/

namespace Sys2Proof.Machine

section
variable {s : State} {t : Transaction} (live : s.pins.resetActive = false) (current : s.port.current = some t)
  (unwanted : t.wanted = false)
include live current unwanted

/-- The end of an unwanted transaction: what it wrote is written, and its requester discards the outcome (R144). -/
theorem event_discards {kind : TxKind} (is : t.kind = kind) (bus : Transaction → BusOut)
    (act : Transaction → State → State) : event s (fun u => u.endTransaction kind bus act) =
    .next ((s.portFreed.onBus (bus t)).discard kind.requester).rest := by
  rw [event_live live, endTransaction_unwanted act current is unwanted, Transaction.requester, is]

/-- The end of an abandoned read of the builder (R45). -/
theorem event_discardsRead {kind : TxKind} (is : t.kind = kind) (own : kind.requester = .builder)
    (act : State → State) : event s (fun u => u.endBuilderRead kind act) =
    .next (State.rest { s.portFreed with builder := { s.builder with orphan := none } }) := by
  refine (event_discards live current unwanted is _ _).trans ?_
  rw [own]
  rfl

/-- The end of a transaction of a look that the engine has left (R135). -/
theorem event_discardsLook {kind : TxKind} (is : t.kind = kind) (own : kind.requester = .walker)
    (bus : Transaction → BusOut) (act : Transaction → State → State) :
    event s (fun u => u.endTransaction kind bus act) = .next (State.rest { s.portFreed with
      walker := { s.walker with state := .idle, stage := .none }, outs := ⟨none, 0, bus t⟩ }) := by
  rw [event_discards live current unwanted is, own]
  rfl

/-- The end of a transaction of the record writer for a job no longer held (R136). -/
theorem event_discardsWrite {kind : TxKind} (is : t.kind = kind) (own : kind.requester = .writer)
    (bus : Transaction → BusOut) (act : Transaction → State → State) :
    event s (fun u => u.endTransaction kind bus act) =
      .next (State.rest { s.portFreed with outs := ⟨none, 0, bus t⟩ }) := by
  rw [event_discards live current unwanted is, own]
  rfl

end

/-- An exchange that finds READY with RELEASED clear writes TAKEN (R132). -/
theorem exchangeBus_takes {word : Word} (unreleased : released word = false) (ready : recordState word = some .ready)
    (a : Word) : exchangeBus a (.data word) = .wrote a (takenWord word) := if_pos ⟨unreleased, ready⟩

/-- Over any other word it writes nothing. -/
theorem exchangeBus_leaves {word : Word} (other : released word = true ∨ recordState word ≠ some .ready) (a : Word) :
    exchangeBus a (.data word) = .nothing := by
  refine if_neg ?_
  rintro ⟨unreleased, ready⟩
  rcases other with isReleased | notReady
  · simp [isReleased] at unreleased
  · exact notReady ready

/-- Settles O44: each block's transactions by how that block discards an outcome. -/
theorem outcomesDiscarded : Obligations.OutcomesDiscarded := by
  intro s t live current unwanted
  have read {kind : TxKind} (is : t.kind = kind) (own : kind.requester = .builder) :=
    event_discardsRead live current unwanted is own
  have look {kind : TxKind} (is : t.kind = kind) (own : kind.requester = .walker) :=
    event_discardsLook live current unwanted is own
  have write {kind : TxKind} (is : t.kind = kind) (own : kind.requester = .writer) :=
    event_discardsWrite live current unwanted is own
  refine ⟨fun is result => read is rfl _, fun is result => read is rfl _, fun is result => read is rfl _,
    fun is result => read is rfl _, fun is result => read is rfl _, fun is result batch => ?entry,
    fun is result => look is rfl _ _, fun is result => look is rfl _ _, fun is result => look is rfl _ _,
    fun is => ⟨look is rfl _ _, fun word => ⟨fun unreleased ready => ?takes, fun other => ?leaves⟩⟩,
    fun is => ⟨write is rfl _ _, write is rfl _ _⟩, fun is result => write is rfl _ _,
    fun is => ⟨write is rfl _ _, fun word => write is rfl _ _⟩⟩
  case entry =>
    exact event_discardsRead (s := { s with pins := s.pins.withBatch batch }) live current unwanted is rfl _
  case takes =>
    refine (look is rfl _ _).trans ?_
    rw [exchangeBus_takes unreleased ready]
  case leaves =>
    refine (look is rfl _ _).trans ?_
    rw [exchangeBus_leaves other]
    rfl

end Sys2Proof.Machine

/-! ## O45: the waits of the builder end -/

namespace Sys2Proof.Machine

/-! ### A step of the block's own, commanded by name (log 1) -/

section
variable {s : State} (live : s.pins.resetActive = false) {step : State → Option State}
include live

/-- A step whose conditions do not hold changes nothing but the lines, which are at rest. -/
theorem event_stays (cannot : step s.quiet = none) :
    event s (fun u => u.orStay (step u)) = .next { s with outs := Outputs.none } := by
  rw [event_live live, cannot]
  rfl

theorem event_makes {t : State} (can : step s.quiet = some t) :
    event s (fun u => u.orStay (step u)) = .next t.rest := by
  rw [event_live live, can]
  rfl

end

/-! ### HELD_ITEM_ENTER (R28) -/

section
variable {s : State}

theorem tryHeld_idle (state : s.builder.state ≠ .waitRoom) : s.tryHeld = none := by
  unfold State.tryHeld
  split
  · exact absurd ‹_› state
  · rfl

variable {item : Item} (state : s.builder.state = .waitRoom) (held : s.builder.held = some item)
include state held

/-- With room the held item enters as if it were emitted now. -/
theorem tryHeld_room (room : s.queue.length < 8) : s.tryHeld = some (s.emit item) := by
  simp only [State.tryHeld, state, held, if_pos room, State.enterHeld, emit_room room]

theorem tryHeld_full (full : 8 ≤ s.queue.length) : s.tryHeld = none := by
  simp only [State.tryHeld, state, held, if_neg (Nat.not_lt.mpr full)]

end

/-! ### A read asked for, with a discarded one outstanding or not (R26, R27) -/

section
variable {s : State} {kind : TxKind} {a : Word} {n : Nat}

theorem readAsked_free (free : s.port.outstanding .builder = false) : s.readAsked kind a n = { s with
    builder := { s.builder with state := .fetching, want := none }
    port := { s.port with builderReq := some ⟨kind, a, n, 0#32, true⟩ } } := by simp [State.readAsked, free]

/-- While a discarded read is outstanding the builder keeps its request (R26). -/
theorem readAsked_outstanding (busy : s.port.outstanding .builder = true) : s.readAsked kind a n = { s with
    builder := { s.builder with state := .fetching, want := some ⟨kind, a, n, 0#32, true⟩ } } := by
  simp [State.readAsked, busy]

/-- The read is the same whether asked for in WAIT_STAGE or in WALKING. -/
theorem readAsked_walkOn : (s.walkOn s.builder.task).readAsked kind a n = s.readAsked kind a n := rfl

end

/-! ### STAGE_WAIT_END (R37, R39) -/

section
variable {s : State}

theorem stageFree_table_iff {src : Word} (task : s.builder.task = .table src) :
    s.stageFree = true ↔ ∀ y, Item.swap y ∉ s.queue := by
  rw [State.stageFree, task, Bool.not_eq_true', ← Bool.not_eq_true, any_isSwap_iff, not_exists]

theorem stageFree_setupBlock_iff (task : s.builder.task = .setupBlock) :
    s.stageFree = true ↔ ∀ y, Item.setup y ∉ s.queue := by
  rw [State.stageFree, task, Bool.not_eq_true', ← Bool.not_eq_true, any_isSetup_iff, not_exists]

theorem tryStage_idle (state : s.builder.state ≠ .waitStage) : s.tryStage = none := by
  unfold State.tryStage
  split
  · exact absurd ‹_› state
  · rfl

variable {x : SlotId} (state : s.builder.state = .waitStage) (job : s.builder.job = some x)
include state job

theorem tryStage_waits (occupied : ¬s.stageFree = true) : s.tryStage = none := by
  simp only [State.tryStage, state, job, if_neg occupied]

/-- The wait over, the builder acts on its task as in WALKING. -/
theorem tryStage_acts (free : s.stageFree = true) :
    s.tryStage = some ((s.walkOn s.builder.task).actOn x s.builder.task) := by
  simp only [State.tryStage, state, job, if_pos free]

theorem tryStage_table_waits {src : Word} (task : s.builder.task = .table src) (swap : ∃ y, Item.swap y ∈ s.queue) :
    s.tryStage = none :=
  tryStage_waits state job fun free => swap.elim ((stageFree_table_iff task).mp free)

theorem tryStage_table_reads {src : Word} (task : s.builder.task = .table src)
    (noSwap : ∀ y, Item.swap y ∉ s.queue) : s.tryStage = some (s.readAsked .tableRead src 5) := by
  rw [tryStage_acts state job ((stageFree_table_iff task).mpr noSwap), ← readAsked_walkOn, task]
  exact congrArg some (startTable_reads (s := s.walkOn _) noSwap src)

theorem tryStage_setup_waits (task : s.builder.task = .setupBlock) (setup : ∃ y, Item.setup y ∈ s.queue) :
    s.tryStage = none :=
  tryStage_waits state job fun free => setup.elim ((stageFree_setupBlock_iff task).mp free)

theorem tryStage_setup_reads {j : Job} (held : s.job x = some j) (task : s.builder.task = .setupBlock)
    (noSetup : ∀ y, Item.setup y ∉ s.queue) :
    s.tryStage = some (s.readAsked .setupBlockRead (j.record + 48#32) 16) := by
  rw [tryStage_acts state job ((stageFree_setupBlock_iff task).mpr noSetup), ← readAsked_walkOn, task]
  exact congrArg some (startSetupBlock_reads (s := s.walkOn _) job held noSetup)

end

/-- Settles O45: each command is its step when the wait is over, and nothing before. -/
theorem builderWaitsEnd : Obligations.BuilderWaitsEnd := by
  intro s live
  have keeps : s.quiet.tryHeld = none → exec .heldItemEnter s = .next { s with outs := Outputs.none } :=
    event_stays live (step := State.tryHeld)
  have enters {t} : s.quiet.tryHeld = some t → exec .heldItemEnter s = .next t.rest :=
    event_makes live (step := State.tryHeld)
  have waits : s.quiet.tryStage = none → exec .stageWaitEnd s = .next { s with outs := Outputs.none } :=
    event_stays live (step := State.tryStage)
  have reads {t u} (read : s.quiet.tryStage = some t) (asked : t = u) : exec .stageWaitEnd s = .next u.rest :=
    asked ▸ event_makes live (step := State.tryStage) read
  refine ⟨fun item state held => ⟨fun room => ?_, fun full => ?_⟩, fun state => ?_,
    fun x src state job task => ⟨fun swap => ?_, fun noSwap free => ?_, fun noSwap busy => ?_⟩,
    fun x j state job held task => ⟨fun setup => ?_, fun noSetup free => ?_, fun noSetup busy => ?_⟩, fun state => ?_⟩
  · exact enters (tryHeld_room (s := s.quiet) state held room)
  · exact keeps (tryHeld_full (s := s.quiet) state held full)
  · exact keeps (tryHeld_idle (s := s.quiet) state)
  · exact waits (tryStage_table_waits (s := s.quiet) state job task swap)
  · exact reads (tryStage_table_reads (s := s.quiet) state job task noSwap) (readAsked_free (s := s.quiet) free)
  · exact reads (tryStage_table_reads (s := s.quiet) state job task noSwap) (readAsked_outstanding (s := s.quiet) busy)
  · exact waits (tryStage_setup_waits (s := s.quiet) state job task setup)
  · exact reads (tryStage_setup_reads (s := s.quiet) state job held task noSetup) (readAsked_free (s := s.quiet) free)
  · exact reads (tryStage_setup_reads (s := s.quiet) state job held task noSetup)
      (readAsked_outstanding (s := s.quiet) busy)
  · exact waits (tryStage_idle (s := s.quiet) state)

end Sys2Proof.Machine

/-! ## The encoder, and O16

A transition of the encoder lines reaches the block with the lines at their new levels (R48). -/

namespace Sys2Proof.Machine

/-- The block with the encoder lines at a level, which the tracker keeps, and the outputs at rest (R48). -/
def State.linesAt (s : State) (l : LineState) : State :=
  { s with pins := { s.pins with enc := l }, tracker := { s.tracker with line := l }, outs := Outputs.none }

theorem exec_encoderStep {s : State} (live : s.pins.resetActive = false) (d : Direction) :
    exec (.encoderStep d) s = .next ((s.linesAt (s.pins.enc.step d)).encoderStepped d) :=
  pinEvent_live (p := s.pins.withEnc (s.pins.enc.step d)) live fun t => (t.takeLines t.pins.enc).encoderStepped d

theorem exec_illegalTransition {s : State} (live : s.pins.resetActive = false) :
    exec .illegalTransition s = .next ((s.linesAt s.pins.enc.flip).raise .encoderSlip) :=
  pinEvent_live (p := s.pins.withEnc s.pins.enc.flip) live fun t => (t.takeLines t.pins.enc).raise .encoderSlip

/-! ### The class of a step (R50) -/

section
variable {s : State}

theorem encoderStepped_reverse_below (below : s.tracker.debt < s.tracker.settings.reverseLimit) :
    s.encoderStepped .reverse = s.mapTracker fun t => { t with debt := t.debt + 1 } := if_pos below

theorem encoderStepped_reverse_limit (limit : s.tracker.settings.reverseLimit ≤ s.tracker.debt) :
    s.encoderStepped .reverse = s.reverseLimitEvent.rest := if_neg (Nat.not_lt.mpr limit)

theorem encoderStepped_forward_repays (owed : 0 < s.tracker.debt) :
    s.encoderStepped .forward = s.mapTracker fun t => { t with debt := t.debt - 1 } := if_pos owed

theorem encoderStepped_forward_effective (noDebt : s.tracker.debt = 0) :
    s.encoderStepped .forward = s.effectiveStep.rest := if_neg (by omega)

end

/-! ### The reverse-limit event (R51) -/

/-- The mark queue flushed and DEBT cleared. -/
def Tracker.flushDebt (t : Tracker) : Tracker := { t.flush with debt := 0 }

section
variable {s : State}

theorem registering_iff : s.registering = true ↔ s.firing.print = .into ∨ s.tracker.marks ≠ [] := by
  simp [State.registering]

theorem reverseLimitEvent_unregistered (out : s.firing.print = .out) (empty : s.tracker.marks = []) :
    s.reverseLimitEvent = s.mapTracker Tracker.flushDebt := by
  refine if_neg fun registering => ?_
  rcases registering_iff.mp registering with into | marks
  · simp [out] at into
  · exact marks empty

theorem reverseLimitEvent_registered (h : s.firing.print = .into ∨ s.tracker.marks ≠ []) :
    s.reverseLimitEvent = (s.mapTracker Tracker.flushDebt).faultCounting .reverseLimit :=
  if_pos (registering_iff.mpr h)

theorem faultCounting_none (code : FaultCode) (noJob : s.countingJob = none) : s.faultCounting code = s := by
  simp only [State.faultCounting, noJob]

theorem faultCounting_some (code : FaultCode) {x : SlotId} (counting : s.countingJob = some x) :
    s.faultCounting code = s.takeFault x code 0 := by
  simp only [State.faultCounting, counting]

end

/-- Settles O16: each step by its class, and the event at the limit by what registration it finds. -/
theorem encoderStepsClassed : Obligations.EncoderStepsClassed := by
  refine ⟨⟨rfl, rfl, rfl, rfl, fun l => ⟨?_, ?_, rfl⟩⟩, fun s live => ⟨fun below => ?_, fun owed => ?_, ?_, ?_⟩⟩
  · simp [LineState.forward, LineState.reverse]
  · simp [LineState.forward, LineState.reverse]
  · exact (exec_encoderStep live .reverse).trans (congrArg _ (encoderStepped_reverse_below below))
  · exact (exec_encoderStep live .forward).trans (congrArg _ (encoderStepped_forward_repays owed))
  · exact exec_illegalTransition live
  · intro limit flushed
    let stepped := s.linesAt s.pins.enc.reverse
    have event : exec (.encoderStep .reverse) s = .next stepped.reverseLimitEvent.rest :=
      (exec_encoderStep live .reverse).trans (congrArg _ (encoderStepped_reverse_limit limit))
    have flush : stepped.mapTracker Tracker.flushDebt = flushed := rfl
    refine ⟨fun out empty => ?_, fun registered noJob => ?_, fun x registered counting => ?_⟩
    · rw [event, reverseLimitEvent_unregistered (s := stepped) out empty, flush]
    · rw [event, reverseLimitEvent_registered (s := stepped) registered, flush,
        faultCounting_none (s := flushed) _ noJob]
    · rw [event, reverseLimitEvent_registered (s := stepped) registered, flush,
        faultCounting_some (s := flushed) _ counting]

end Sys2Proof.Machine

/-! ## The counters of a job -/

namespace Sys2Proof.Machine

/-- What the job in a slot has counted, by a function of its counters; nothing for a free slot. -/
def State.counter {α : Type} (s : State) (g : Counts → α) (x : SlotId) : Option α := (s.job x).map fun j => g j.counts

section
variable {α : Type} {s t : State} {x : SlotId}

theorem counter_of_job {j : Job} (g : Counts → α) (held : s.job x = some j) : s.counter g x = some (g j.counts) := by
  simp [State.counter, held]

theorem counter_eq_some_iff {g : Counts → α} {v : α} :
    s.counter g x = some v ↔ ∃ j, s.job x = some j ∧ g j.counts = v := Option.map_eq_some_iff

theorem counter_eq_none_iff {g : Counts → α} : s.counter g x = none ↔ s.job x = none := Option.map_eq_none_iff

theorem counter_congr (h : t.slots = s.slots) (g : Counts → α) : t.counter g x = s.counter g x := by
  rw [State.counter, job_congr h, State.counter]

/-! ### Counts in the counting job (R69) -/

theorem countIn_slots_congr (h : t.slots = s.slots) (f : Counts → Counts) :
    (t.countIn f).slots = (s.countIn f).slots := by
  unfold State.countIn
  rw [countingJob_congr h]
  split
  · exact h
  · simp only [State.mapCounts, mapJob_eq, h]

theorem counter_countIn_counting (f : Counts → Counts) (g : Counts → α) (counting : s.countingJob = some x) :
    (s.countIn f).counter g x = s.counter (fun c => g (f c)) x := by
  simp only [State.counter, countIn_job, if_pos counting, Option.map_map]
  rfl

theorem counter_countIn_other (f : Counts → Counts) (g : Counts → α) (other : s.countingJob ≠ some x) :
    (s.countIn f).counter g x = s.counter g x := by
  rw [State.counter, countIn_misses f s other, State.counter]

/-- A count leaves the counters it does not name. -/
theorem counter_countIn_keeps {f : Counts → Counts} {g : Counts → α} (keeps : ∀ c, g (f c) = g c) :
    (s.countIn f).counter g x = s.counter g x := by
  by_cases counting : s.countingJob = some x
  · simp only [counter_countIn_counting f g counting, keeps]
  · exact counter_countIn_other f g counting

end

/-! ### The counters through the block's own steps (log 1) -/

theorem kept_rest (s : State) : s.Kept s.rest :=
  restFor_keeps (P := s.Kept) (fun _ _ kept own => kept.trans (kept_ownStep own)) _ s (.refl s)

theorem unstopped_rest {s : State} (notEnding : s.NotEnding) : s.Unstopped s.rest := by
  have both := restFor_keeps (P := fun t => s.Unstopped t ∧ t.NotEnding)
    (fun _ _ ⟨unstopped, running⟩ own =>
      have stays := unstopped_ownStep running own
      ⟨unstopped.trans stays, running.kept (kept_ownStep own) stays.ctl⟩) restBound s ⟨.refl s, notEnding⟩
  exact both.1

/-- No flag that is set is cleared. -/
theorem State.Kept.flag {s t : State} (h : s.Kept t) {i : Nat} (set : s.ctl.attn.getLsbD i = true) :
    t.ctl.attn.getLsbD i = true := by
  have bit := congrArg (·.getLsbD i) h.attn
  simpa [set] using bit

/-- The own steps count lost triggers alone. -/
theorem counter_rest {α : Type} (s : State) {g : Counts → α} (x : SlotId)
    (keeps : ∀ c, g { c with underruns := 0#16, overspeeds := 0#16 } = g c) :
    s.rest.counter g x = s.counter g x := by
  obtain ⟨free, carried⟩ := (kept_rest s).jobs x
  cases held : s.job x with
  | none => rw [counter_eq_none_iff.mpr held, counter_eq_none_iff.mpr (free held)]
  | some j =>
    obtain ⟨j', held', same⟩ := carried j held
    rw [counter_of_job g held, counter_of_job g held', ← keeps, same.counts, keeps]

end Sys2Proof.Machine

/-! ## Effective steps: the tracker's part, and the firing section's -/

namespace Sys2Proof.Machine

/-- The measurement has reached a MARK_MAX other than 0: the next effective step rejects the mark as long (R57). -/
def Qualifier.overlong (q : Qualifier) : Prop :=
  ∃ leading width captured, q = .measuring leading width captured ∧ captured.max ≠ 0 ∧ width = captured.max

/-- The qualifier after an effective step (R57). -/
def Qualifier.stepped : Qualifier → Qualifier
  | .waiting => .waiting
  | .jammed edge => .jammed edge
  | .measuring leading width captured =>
    if captured.max ≠ 0 ∧ width = captured.max then .jammed captured.edge
    else .measuring leading (min (width + 1) Config.widthLimit) captured

/-- The tracker after an effective step (R53). -/
def Tracker.stepped (t : Tracker) : Tracker :=
  { t with
    epos := t.epos + 1#32
    web := .moving
    stillTimer := .running t.settings.stillTime
    qualifier := t.qualifier.stepped
    marks := if t.advance.due then t.marks.tail else t.marks }

/-- The block after the tracker's part of an effective step (R53). -/
def State.tracked (s : State) : State := (s.mapTracker Tracker.advance).webStep.widthStep.dueStep

theorem overlong_measuring_iff {leading : Word} {width : Nat} {captured : MarkSettings} :
    (Qualifier.measuring leading width captured).overlong ↔ captured.max ≠ 0 ∧ width = captured.max := by
  constructor
  · rintro ⟨_, _, _, ⟨⟩, long⟩
    exact long
  · exact fun long => ⟨leading, width, captured, rfl, long⟩

/-! ### The due check (R64) -/

theorem due_advance_nil {t : Tracker} (empty : t.marks = []) : t.advance.due = false := by
  simp [Tracker.due, Tracker.advance, empty]

theorem due_advance_cons {t : Tracker} {position : Word} {rest : List Word} (marks : t.marks = position :: rest) :
    t.advance.due = reached (t.epos + 1#32) position := by simp [Tracker.due, Tracker.advance, marks]

/-- No entry of the mark queue is reached by the step. -/
theorem due_advance_none {t : Tracker}
    (unreached : t.marks = [] ∨
      ∃ position rest, t.marks = position :: rest ∧ reached (t.epos + 1#32) position = false) :
    t.advance.due = false := by
  rcases unreached with empty | ⟨position, rest, marks, ahead⟩
  · exact due_advance_nil empty
  · rw [due_advance_cons marks, ahead]

section
variable (s : State)

/-! ### The tracker -/

theorem webStep_tracker :
    s.webStep.tracker = { s.tracker with web := .moving, stillTimer := .running s.tracker.settings.stillTime } := by
  unfold State.webStep
  split <;> rfl

theorem widthStep_tracker : s.widthStep.tracker = { s.tracker with qualifier := s.tracker.qualifier.stepped } := by
  unfold State.widthStep
  split
  case h_1 waiting => rw [waiting, Qualifier.stepped, ← waiting]
  case h_2 jammed => rw [jammed, Qualifier.stepped, ← jammed]
  case h_3 measuring =>
    rw [measuring, Qualifier.stepped]
    split <;> simp

theorem dueStep_tracker :
    s.dueStep.tracker =
      { s.tracker with marks := if s.tracker.due then s.tracker.marks.tail else s.tracker.marks } := by
  unfold State.dueStep
  split <;> rfl

/-- Neither the web nor the width has a part in the due check. -/
theorem measured_due : (s.mapTracker Tracker.advance).webStep.widthStep.tracker.due = s.tracker.advance.due := by
  rw [widthStep_tracker, webStep_tracker]
  rfl

theorem tracked_tracker : s.tracked.tracker = s.tracker.stepped := by
  rw [State.tracked, dueStep_tracker, measured_due, widthStep_tracker, webStep_tracker]
  rfl

theorem effectiveStep_eq : s.effectiveStep = s.tracked.fireStep s.tracker.advance.due := by
  rw [← measured_due]
  rfl

theorem effectiveStep_tracker : s.effectiveStep.tracker = s.tracker.stepped := by
  rw [effectiveStep_eq, ← tracked_tracker]
  simp

/-! ### The control block and what the tracker leaves alone -/

theorem effectiveStep_ctl :
    s.effectiveStep.ctl =
      if s.tracker.web = .still then { s.ctl with attn := s.ctl.attn ||| 0x10#8 } else s.ctl := by
  have web : s.effectiveStep.ctl = (s.mapTracker Tracker.advance).webStep.ctl := by simp [State.effectiveStep]
  rw [web, State.webStep]
  split <;> rename_i still
  · exact (if_pos still).symm
  · exact (if_neg still).symm

theorem effectiveStep_engine : s.effectiveStep.ctl.engine = s.ctl.engine := by
  rw [effectiveStep_ctl]
  split <;> rfl

@[simp] theorem tracked_frame :
    s.tracked.queue = s.queue ∧ s.tracked.firing = s.firing ∧ s.tracked.head = s.head := by simp [State.tracked]

end

/-! ### The jobs and the width (R57) -/

section
variable {s : State}

theorem widthStep_slots_overlong (long : s.tracker.qualifier.overlong) :
    s.widthStep.slots = (s.countIn Counts.long).slots := by
  obtain ⟨leading, width, captured, measuring, atMax⟩ := long
  simp only [State.widthStep, measuring, if_pos atMax, mapTracker_slots]

theorem widthStep_slots (notLong : ¬s.tracker.qualifier.overlong) : s.widthStep.slots = s.slots := by
  unfold State.widthStep
  split
  case h_1 => rfl
  case h_2 => rfl
  case h_3 measuring =>
    rw [measuring, overlong_measuring_iff] at notLong
    rw [if_neg notLong, mapTracker_slots]

/-- The measurement as the width step finds it. -/
theorem webStep_qualifier (s : State) :
    (s.mapTracker Tracker.advance).webStep.tracker.qualifier = s.tracker.qualifier := by
  rw [webStep_tracker]
  rfl

theorem tracked_slots_overlong (long : s.tracker.qualifier.overlong) :
    s.tracked.slots = (s.countIn Counts.long).slots := by
  have counted := widthStep_slots_overlong (s := (s.mapTracker Tracker.advance).webStep) (webStep_qualifier s ▸ long)
  have same : (s.mapTracker Tracker.advance).webStep.slots = s.slots := by simp
  simpa [State.tracked, countIn_slots_congr same] using counted

theorem tracked_slots (notLong : ¬s.tracker.qualifier.overlong) : s.tracked.slots = s.slots := by
  have kept := widthStep_slots (s := (s.mapTracker Tracker.advance).webStep) (webStep_qualifier s ▸ notLong)
  simpa [State.tracked] using kept

theorem tracked_countingJob : s.tracked.countingJob = s.countingJob := by
  by_cases long : s.tracker.qualifier.overlong
  · rw [countingJob_congr (tracked_slots_overlong long), countingJob_countIn]
  · exact countingJob_congr (tracked_slots long)

/-- The tracker counts long marks alone. -/
theorem counter_tracked {α : Type} {g : Counts → α} {x : SlotId} (keeps : ∀ c, g (Counts.long c) = g c) :
    s.tracked.counter g x = s.counter g x := by
  by_cases long : s.tracker.qualifier.overlong
  · rw [counter_congr (tracked_slots_overlong long), counter_countIn_keeps keeps]
  · exact counter_congr (tracked_slots long) g

/-! ### The disposition of a product start (TABLE 4-5) -/

/-- A product start is not accepted here: it is ignored or missed. -/
def State.refusesStart (s : State) : Prop :=
  s.countingJob = none ∨ s.firing.print = .into ∨ (∀ y items, s.queue ≠ .hold y :: items) ∨ s.head.state ≠ .ready

theorem countIn_none (f : Counts → Counts) (noJob : s.countingJob = none) : s.countIn f = s := by
  simp only [State.countIn, noJob]

/-- One that is not accepted is counted as missed, in the counting job if there is one. -/
theorem productStart_refused (refused : s.refusesStart) : s.productStart = s.countIn Counts.missed := by
  unfold State.productStart
  split
  · exact (countIn_none _ ‹_›).symm
  rename_i counting
  split
  · rfl
  rename_i notInto
  split
  · rename_i y items hold
    rcases refused with noJob | into | noHold | notReady
    · exact absurd noJob counting
    · exact absurd into notInto
    · exact absurd hold (noHold y items)
    · exact if_neg notReady
  · rfl

theorem productStart_accepted {x y : SlotId} {items : List Item} (counting : s.countingJob = some x)
    (out : s.firing.print = .out) (hold : s.queue = .hold y :: items) (ready : s.head.state = .ready) :
    s.productStart = s.acceptProduct := by simp [State.productStart, counting, out, hold, ready]

/-- A product start makes one count, of a product missed or of one started. -/
theorem productStart_slots :
    s.productStart.slots = (s.countIn Counts.missed).slots ∨
      s.productStart.slots = (s.countIn Counts.started).slots := by
  by_cases refused : s.refusesStart
  · exact .inl (congrArg State.slots (productStart_refused refused))
  · simp only [State.refusesStart, not_or, not_forall, not_not] at refused
    obtain ⟨counting, notInto, ⟨y, items, hold⟩, ready⟩ := refused
    obtain ⟨x, counting⟩ := Option.ne_none_iff_exists'.mp counting
    have out : s.firing.print = .out := by
      cases print : s.firing.print with
      | out => rfl
      | into => exact absurd print notInto
    rw [productStart_accepted counting out hold ready]
    exact .inr rfl

theorem counter_productStart_other {α : Type} (g : Counts → α) {x : SlotId} (other : s.countingJob ≠ some x) :
    s.productStart.counter g x = s.counter g x := by
  rcases productStart_slots (s := s) with slots | slots <;> rw [counter_congr slots, counter_countIn_other _ g other]

theorem counter_productStart_keeps {α : Type} {g : Counts → α} {x : SlotId} (missed : ∀ c, g (Counts.missed c) = g c)
    (started : ∀ c, g (Counts.started c) = g c) : s.productStart.counter g x = s.counter g x := by
  rcases productStart_slots (s := s) with slots | slots
  · rw [counter_congr slots, counter_countIn_keeps missed]
  · rw [counter_congr slots, counter_countIn_keeps started]

/-! ### The firing section's part (R76, R82) -/

/-- With the print state IN a product start is missed, and the step is counted. -/
theorem fireStep_into (into : s.firing.print = .into) (start : Bool) :
    s.fireStep start = (if start then s.countIn Counts.missed else s).countStep := by
  rw [State.fireStep, if_pos into, productStart_refused (.inr (.inl into))]

/-- With the print state OUT and no product start accepted, a miss is all there is. -/
theorem fireStep_out (out : s.firing.print = .out) {start : Bool} (unaccepted : start = false ∨ s.refusesStart) :
    s.fireStep start = if start then s.countIn Counts.missed else s := by
  have notInto : ¬s.firing.print = .into := by simp [out]
  rw [State.fireStep, if_neg notInto]
  rcases unaccepted with rfl | refused
  · rfl
  · rw [productStart_refused refused]

theorem fireStep_slots (start : Bool) :
    (s.fireStep start).slots = (if start then s.productStart else s).slots := by
  rw [State.fireStep]
  split
  · rw [countStep_slots]
  · rfl

/-! ### The counters through an effective step -/

section
variable {α : Type} {g : Counts → α} {x : SlotId}

theorem counter_effectiveStep_due (due : s.tracker.advance.due = true) :
    s.effectiveStep.counter g x = s.tracked.productStart.counter g x := by
  rw [effectiveStep_eq, counter_congr (fireStep_slots _), due]
  rfl

theorem counter_effectiveStep_notDue (notDue : s.tracker.advance.due = false) :
    s.effectiveStep.counter g x = s.tracked.counter g x := by
  rw [effectiveStep_eq, counter_congr (fireStep_slots _), notDue]
  rfl

/-- A counter that no product start counts in is the tracker's alone. -/
theorem counter_effectiveStep_keeps (missed : ∀ c, g (Counts.missed c) = g c)
    (started : ∀ c, g (Counts.started c) = g c) : s.effectiveStep.counter g x = s.tracked.counter g x := by
  cases due : s.tracker.advance.due with
  | false => exact counter_effectiveStep_notDue due
  | true => rw [counter_effectiveStep_due due, counter_productStart_keeps missed started]

end

theorem effectiveStep_job_none_iff {x : SlotId} : s.effectiveStep.job x = none ↔ s.job x = none := by
  have held : s.effectiveStep.counter (fun _ => ()) x = s.counter (fun _ => ()) x :=
    (counter_effectiveStep_keeps (fun _ => rfl) fun _ => rfl).trans (counter_tracked fun _ => rfl)
  rw [← counter_eq_none_iff, held, counter_eq_none_iff]

theorem notEnding_effectiveStep (notEnding : s.NotEnding) : s.effectiveStep.NotEnding := by
  rcases notEnding with engine | ⟨x, held⟩
  · exact .inl (by rwa [effectiveStep_engine])
  · exact .inr ⟨x, fun free => held (effectiveStep_job_none_iff.mp free)⟩

end

/-- A forward step with no DEBT is an effective step, followed to rest (R50). -/
theorem exec_effectiveStep {s : State} (live : s.pins.resetActive = false) (noDebt : s.tracker.debt = 0) :
    exec (.encoderStep .forward) s = .next (s.linesAt s.pins.enc.forward).effectiveStep.rest :=
  (exec_encoderStep live .forward).trans (congrArg _ (encoderStepped_forward_effective noDebt))

end Sys2Proof.Machine

/-! ## O18: the width of a measurement -/

namespace Sys2Proof.Machine

theorem stepped_overlong {leading : Word} {width : Nat} {captured : MarkSettings}
    (long : captured.max ≠ 0 ∧ width = captured.max) :
    (Qualifier.measuring leading width captured).stepped = .jammed captured.edge := if_pos long

theorem stepped_counts {leading : Word} {width : Nat} {captured : MarkSettings}
    (notLong : ¬(captured.max ≠ 0 ∧ width = captured.max)) :
    (Qualifier.measuring leading width captured).stepped = .measuring leading (min (width + 1) 65535) captured :=
  if_neg notLong

theorem qualifier_effectiveStep_rest (s : State) :
    s.effectiveStep.rest.tracker.qualifier = s.tracker.qualifier.stepped := by
  rw [(kept_rest s.effectiveStep).qualifier, effectiveStep_tracker]
  rfl

/-- Long marks are counted by the tracker's part of the step alone. -/
theorem marksLong_effectiveStep_rest (s : State) (x : SlotId) :
    s.effectiveStep.rest.counter Counts.marksLong x = s.tracked.counter Counts.marksLong x := by
  rw [counter_rest _ x fun _ => rfl, counter_effectiveStep_keeps (fun _ => rfl) fun _ => rfl]

/-- Settles O18: the qualifier steps, and a mark rejected as long is counted at that step. -/
theorem measuredWidth : Obligations.MeasuredWidth := by
  intro s live noDebt
  have stepped := qualifier_effectiveStep_rest (s.linesAt s.pins.enc.forward)
  have longs := marksLong_effectiveStep_rest (s.linesAt s.pins.enc.forward)
  refine ⟨_, exec_effectiveStep live noDebt, fun waiting => ?_, fun edge jammed => ?_,
    fun leading width captured measuring => ⟨fun long => ⟨?_, fun x j counting held => ?_⟩,
      fun notLong => ⟨?_, fun x j held => ?_⟩⟩⟩
  · exact stepped.trans (congrArg Qualifier.stepped waiting)
  · exact stepped.trans (congrArg Qualifier.stepped jammed)
  · exact (stepped.trans (congrArg Qualifier.stepped measuring)).trans (stepped_overlong long)
  · have overlong : (s.linesAt s.pins.enc.forward).tracker.qualifier.overlong := ⟨_, _, _, measuring, long⟩
    apply counter_eq_some_iff.mp
    rw [longs, counter_congr (tracked_slots_overlong overlong),
      counter_countIn_counting (s := s.linesAt _) _ _ counting, counter_of_job (s := s.linesAt _) _ held]
    rfl
  · exact (stepped.trans (congrArg Qualifier.stepped measuring)).trans (stepped_counts notLong)
  · have short : ¬(s.linesAt s.pins.enc.forward).tracker.qualifier.overlong := by
      rw [show (s.linesAt s.pins.enc.forward).tracker.qualifier = _ from measuring, overlong_measuring_iff]
      exact notLong
    apply counter_eq_some_iff.mp
    rw [longs, counter_congr (tracked_slots short), counter_of_job (s := s.linesAt _) _ held]

end Sys2Proof.Machine

/-! ## O19: product starts -/

namespace Sys2Proof.Machine

/-- Products missed and products started (TABLE 7-5). -/
def Counts.products (c : Counts) : BitVec 16 × BitVec 16 := (c.productsMissed, c.productsStarted)

theorem products_eq_iff {c : Counts} {missed started : BitVec 16} :
    c.products = (missed, started) ↔ c.productsMissed = missed ∧ c.productsStarted = started := Prod.ext_iff

theorem marks_effectiveStep_rest {s : State} (notEnding : s.NotEnding) :
    s.effectiveStep.rest.tracker.marks = if s.tracker.advance.due then s.tracker.marks.tail else s.tracker.marks := by
  rw [(unstopped_rest (notEnding_effectiveStep notEnding)).marks, effectiveStep_tracker]
  rfl

section
variable {s : State} {x : SlotId}

/-- With no mark due there is no product start. -/
theorem products_notDue (notDue : s.tracker.advance.due = false) :
    s.effectiveStep.counter Counts.products x = s.counter Counts.products x := by
  rw [counter_effectiveStep_notDue notDue, counter_tracked fun _ => rfl]

/-- A product start is the counting job's alone. -/
theorem products_other (other : s.countingJob ≠ some x) :
    s.effectiveStep.counter Counts.products x = s.counter Counts.products x := by
  cases due : s.tracker.advance.due with
  | false => exact products_notDue due
  | true =>
    rw [counter_effectiveStep_due due, counter_productStart_other _ (by rwa [tracked_countingJob]),
      counter_tracked fun _ => rfl]

theorem tracked_refusesStart (refused : s.refusesStart) : s.tracked.refusesStart := by
  simpa [State.refusesStart, tracked_countingJob] using refused

variable {j : Job} (due : s.tracker.advance.due = true) (counting : s.countingJob = some x) (held : s.job x = some j)
include due counting held

theorem products_missed (refused : s.refusesStart) : s.effectiveStep.counter Counts.products x =
    some (satInc j.counts.productsMissed, j.counts.productsStarted) := by
  rw [counter_effectiveStep_due due, productStart_refused (tracked_refusesStart refused),
    counter_countIn_counting _ _ (tracked_countingJob.trans counting), counter_tracked fun _ => rfl,
    counter_of_job _ held]
  rfl

theorem products_started {y : SlotId} {items : List Item} (out : s.firing.print = .out)
    (hold : s.queue = .hold y :: items) (ready : s.head.state = .ready) :
    s.effectiveStep.counter Counts.products x =
      some (j.counts.productsMissed, satInc j.counts.productsStarted) := by
  have countingNow := tracked_countingJob.trans counting
  have accepted : s.tracked.productStart = s.tracked.acceptProduct :=
    productStart_accepted (y := y) (items := items) countingNow (by simpa) (by simpa) (by simpa)
  have slots : s.tracked.acceptProduct.slots = (s.tracked.countIn Counts.started).slots := rfl
  rw [counter_effectiveStep_due due, accepted, counter_congr slots, counter_countIn_counting _ _ countingNow,
    counter_tracked fun _ => rfl, counter_of_job _ held]
  rfl

end

/-- Settles O19: the head mark leaves when it is due, and the start it gives is judged by what the tracker leaves. -/
theorem productStartsJudged : Obligations.ProductStartsJudged := by
  intro s live noDebt
  let u := s.linesAt s.pins.enc.forward
  refine ⟨_, exec_effectiveStep live noDebt, fun notEnding => ?_, fun x j held => ?_⟩
  · rw [marks_effectiveStep_rest (s := u) notEnding]
    cases marks : s.tracker.marks with
    | nil => rw [due_advance_nil (t := u.tracker) marks]; exact marks
    | cons position rest =>
      rw [due_advance_cons (t := u.tracker) marks, show u.tracker.marks = _ from marks]
      rfl
  · have before : u.counter Counts.products x = some j.counts.products := counter_of_job (s := u) _ held
    have stays : u.job x ≠ none := fun free => by cases free.symm.trans held
    obtain ⟨j', held'⟩ : ∃ j', u.effectiveStep.rest.job x = some j' := by
      refine Option.ne_none_iff_exists'.mp fun free => stays ?_
      rwa [← counter_eq_none_iff (g := fun _ => ()), counter_rest _ x fun _ => rfl, counter_eq_none_iff,
        effectiveStep_job_none_iff] at free
    have after {missed started : BitVec 16}
        (counted : u.effectiveStep.counter Counts.products x = some (missed, started)) :
        j'.counts.productsMissed = missed ∧ j'.counts.productsStarted = started := by
      rw [← counter_rest _ x fun _ => rfl, counter_of_job _ held', Option.some_inj] at counted
      exact products_eq_iff.mp counted
    refine ⟨j', held', fun notDue => after ?_, fun other => after ?_, fun position rest marks isReached counting =>
      ⟨fun refused => after ?_, fun y items out hold ready => after ?_⟩⟩
    · exact (products_notDue (s := u) (due_advance_none notDue)).trans before
    · exact (products_other (s := u) other).trans before
    · have due := (due_advance_cons (t := u.tracker) marks).trans isReached
      exact products_missed (s := u) due counting held (.inr refused)
    · have due := (due_advance_cons (t := u.tracker) marks).trans isReached
      exact products_started (s := u) due counting held out hold ready

end Sys2Proof.Machine

/-! ## O17: the web, EPOS and the divider -/

namespace Sys2Proof.Machine

/-! ### What an effective step leaves alone -/

theorem effectiveStep_head (s : State) : s.effectiveStep.head = s.head := by simp

theorem effectiveStep_mapper (s : State) : s.effectiveStep.mapper = s.mapper := by simp

theorem effectiveStep_pins (s : State) : s.effectiveStep.pins = s.pins := by simp

theorem effectiveStep_outs (s : State) : s.effectiveStep.outs = s.outs := by simp

/-! ### The web and its timer (R52, R54) -/

theorem epos_effectiveStep_rest (s : State) : s.effectiveStep.rest.tracker.epos = s.tracker.epos + 1#32 := by
  rw [(kept_rest _).epos, effectiveStep_tracker]
  rfl

theorem web_effectiveStep_rest (s : State) : s.effectiveStep.rest.tracker.web = .moving := by
  rw [(kept_rest _).web, effectiveStep_tracker]
  rfl

theorem stillTimer_effectiveStep_rest (s : State) :
    s.effectiveStep.rest.tracker.stillTimer = .running s.tracker.settings.stillTime := by
  rw [(kept_rest _).stillTimer, effectiveStep_tracker]
  rfl

theorem line_effectiveStep_rest (s : State) : s.effectiveStep.rest.tracker.line = s.tracker.line := by
  rw [(kept_rest _).line, effectiveStep_tracker]
  rfl

theorem pins_effectiveStep_rest (s : State) : s.effectiveStep.rest.pins = s.pins := by
  rw [(kept_rest _).pins, effectiveStep_pins]

/-- A web found STILL sets WEB attention, which the own steps leave set. -/
theorem attn_effectiveStep_rest {s : State} (still : s.tracker.web = .still) :
    s.effectiveStep.rest.ctl.attn.getLsbD 4 = true := by
  apply (kept_rest _).flag
  rw [effectiveStep_ctl, if_pos still]
  simp

theorem ctl_effectiveStep_rest {s : State} (moving : s.tracker.web = .moving) (notEnding : s.NotEnding) :
    s.effectiveStep.rest.ctl = s.ctl := by
  have notStill : ¬s.tracker.web = .still := by simp [moving]
  rw [(unstopped_rest (notEnding_effectiveStep notEnding)).ctl, effectiveStep_ctl, if_neg notStill]

/-- A signed difference of 0 or more is one below 2^31 (R52). -/
theorem reached_iff (epos position : Word) : reached epos position = true ↔ (epos - position).toNat < 2 ^ 31 := by
  rw [reached, Bool.not_eq_true', BitVec.msb_eq_false_iff_two_mul_lt]
  omega

theorem exec_stillTimerExpiry {s : State} (live : s.pins.resetActive = false) (runs : s.tracker.stillTimer ≠ .stopped) :
    exec .stillTimerExpiry s = .next s.quiet.stillExpired := by
  have running : s.quiet.tracker.stillTimer.runs = true := by
    cases timer : s.tracker.stillTimer with
    | stopped => exact absurd timer runs
    | running interval => simp [timer, Timer.runs]
  exact (event_live live _).trans (congrArg _ (if_pos running))

theorem exec_stillTimerExpiry_stopped {s : State} (live : s.pins.resetActive = false)
    (stopped : s.tracker.stillTimer = .stopped) : exec .stillTimerExpiry s = .next s.quiet := by
  have idle : ¬s.quiet.tracker.stillTimer.runs = true := by simp [stopped, Timer.runs]
  exact (event_live live _).trans (congrArg _ (if_neg idle))

/-! ### The firing section at an effective step (R76, R82) -/

section
variable {s : State}

/-- The divider counts the step, and the head and the queue stay for its expiry. -/
theorem effectiveStep_into {n : Nat} (into : s.firing.print = .into) (divider : s.firing.divider = some (n + 1)) :
    s.effectiveStep.firing = { s.firing with divider := some n } ∧ s.effectiveStep.queue = s.queue := by
  rw [effectiveStep_eq, fireStep_into (by simpa)]
  have counted (v : State) (firing : v.firing = s.firing) (queue : v.queue = s.queue) :
      v.countStep.firing = { s.firing with divider := some n } ∧ v.countStep.queue = s.queue := by
    simp [State.countStep, firing, queue, divider]
  split
  · exact counted _ (by simp) (by simp)
  · exact counted _ (by simp) (by simp)

/-- With the print state OUT and no start accepted the counter is left alone. -/
theorem effectiveStep_out (out : s.firing.print = .out) (unaccepted : s.tracker.advance.due = false ∨ s.refusesStart) :
    s.effectiveStep.firing = s.firing ∧ s.effectiveStep.queue = s.queue := by
  rw [effectiveStep_eq, fireStep_out (by simpa) (unaccepted.imp_right tracked_refusesStart)]
  split <;> simp

theorem productsMissed_effectiveStep {x : SlotId} {j : Job} (due : s.tracker.advance.due = true)
    (counting : s.countingJob = some x) (held : s.job x = some j) (refused : s.refusesStart) :
    s.effectiveStep.counter Counts.productsMissed x = some (satInc j.counts.productsMissed) := by
  obtain ⟨k, heldNow, products⟩ := counter_eq_some_iff.mp (products_missed due counting held refused)
  rw [counter_of_job _ heldNow, (products_eq_iff.mp products).1]

/-! ### The expiry as the next own step (R76, log 24) -/

/-- With nothing to take at the head, the counter at 0 makes the divider's expiry the next own step. -/
theorem ownStep_divider (noHead : s.tryHead = none) (into : s.firing.print = .into)
    (zero : s.firing.divider = some 0) : s.ownStep = some s.dividerExpires := by
  have expires : s.tryDivider = some s.dividerExpires := if_pos ⟨into, zero⟩
  simp [State.ownStep, noHead, expires]

/-- Nothing is taken at the head of an empty queue, of a ROW, or of an END that waits for its row (R73, TABLE 4-3). -/
theorem tryHead_waits (waits : s.queue = [] ∨ (∃ x row items, s.queue = .row x row :: items) ∨
    ∃ x items, s.queue = .finish x :: items ∧ s.shifting x = true) : s.tryHead = none := by
  rcases waits with empty | ⟨x, row, items, queue⟩ | ⟨x, items, queue, shifting⟩
  · simp [State.tryHead, empty]
  · simp [State.tryHead, queue]
  · simp [State.tryHead, State.tryEnd, queue, shifting]

theorem exec_dividerExpiry {s : State} (live : s.pins.resetActive = false) (quiet : s.quiet = s)
    (into : s.firing.print = .into) (zero : s.firing.divider = some 0) :
    exec .dividerExpiry s = .next s.dividerExpires.rest :=
  event_makes live (step := State.tryDivider) (quiet.symm ▸ if_pos ⟨into, zero⟩)

end

theorem quiet_eq_self {s : State} (atRest : s.outs = Outputs.none) : s.quiet = s := by
  rw [State.quiet, ← atRest]

/-- Settles O17: the tracker's part by its fields, and the divider by the print state. -/
theorem webFollowsEffectiveSteps : Obligations.WebFollowsEffectiveSteps := by
  refine ⟨fun s live noDebt => ⟨fun n into divider => ?into, fun out unaccepted => ?out⟩,
    ⟨fun s live noDebt => ?web, reached_iff⟩,
    fun s live => ⟨exec_stillTimerExpiry live, exec_stillTimerExpiry_stopped live⟩⟩
  case into =>
    let u := s.linesAt s.pins.enc.forward
    obtain ⟨firing, queue⟩ := effectiveStep_into (s := u) into divider
    refine ⟨u.effectiveStep, exec_effectiveStep live noDebt, firing, queue, effectiveStep_head u,
      effectiveStep_mapper u, fun x j position rest counting held marks isReached => ?_, fun zero waits => ?_⟩
    · have due := (due_advance_cons (t := u.tracker) marks).trans isReached
      exact counter_eq_some_iff.mp (productsMissed_effectiveStep (s := u) due counting held (.inr (.inl into)))
    · subst zero
      have printing : u.effectiveStep.firing.print = .into := (congrArg Firing.print firing).trans into
      have counted : u.effectiveStep.firing.divider = some 0 := congrArg Firing.divider firing
      have shift : u.effectiveStep.head.shift = s.head.shift := congrArg HeadLink.shift (effectiveStep_head u)
      have noHead : u.effectiveStep.tryHead = none := by
        apply tryHead_waits
        rw [queue]
        simp only [shifting_congr shift]
        exact waits
      have running : u.effectiveStep.pins.resetActive = false :=
        (congrArg Pins.resetActive (effectiveStep_pins u)).trans live
      exact ⟨_, ownStep_divider noHead printing counted,
        exec_dividerExpiry running (quiet_eq_self (effectiveStep_outs u)) printing counted⟩
  case out =>
    let u := s.linesAt s.pins.enc.forward
    have refusal : u.tracker.advance.due = false ∨ u.refusesStart := by
      rcases unaccepted with empty | ahead | noJob | rest
      · exact .inl (due_advance_none (.inl empty))
      · exact .inl (due_advance_none (.inr ahead))
      · exact .inr (.inl noJob)
      · exact .inr (.inr (.inr rest))
    obtain ⟨firing, queue⟩ := effectiveStep_out (s := u) out refusal
    exact ⟨u.effectiveStep, exec_effectiveStep live noDebt, firing, queue, effectiveStep_head u⟩
  case web =>
    let u := s.linesAt s.pins.enc.forward
    exact ⟨_, exec_effectiveStep live noDebt, pins_effectiveStep_rest u, line_effectiveStep_rest u,
      epos_effectiveStep_rest u, web_effectiveStep_rest u, stillTimer_effectiveStep_rest u,
      attn_effectiveStep_rest (s := u), ctl_effectiveStep_rest (s := u)⟩

end Sys2Proof.Machine

/-! ## O20: the edges of MARK -/

namespace Sys2Proof.Machine

/-- The block with MARK at a level and the outputs at rest (R55). -/
def State.markAt (s : State) (level : Bool) : State :=
  { s with pins := { s.pins with mark := level }, outs := Outputs.none }

/-! ### Which command is an edge (R55, log 8) -/

section
variable {s : State} (live : s.pins.resetActive = false)
include live

theorem exec_markActiveEdge_none (active : s.pins.mark = s.tracker.edgeInUse.level) :
    exec .markActiveEdge s = .next s.quiet := (if_pos active).trans (event_live live id)

theorem exec_markActiveEdge (inactive : s.pins.mark ≠ s.tracker.edgeInUse.level) :
    exec .markActiveEdge s = .next ((s.markAt s.tracker.edgeInUse.level).mapTracker Tracker.activeEdge) :=
  (if_neg inactive).trans (pinEvent_live (p := s.pins.withMark s.activeLevel) live _)

theorem exec_markInactiveEdge_none (inactive : s.pins.mark ≠ s.tracker.edgeInUse.level) :
    exec .markInactiveEdge s = .next s.quiet := (if_neg inactive).trans (event_live live id)

theorem exec_markInactiveEdge (active : s.pins.mark = s.tracker.edgeInUse.level) :
    exec .markInactiveEdge s = .next (s.markAt !s.tracker.edgeInUse.level).inactiveEdge :=
  (if_pos active).trans (pinEvent_live (p := s.pins.withMark !s.activeLevel) live _)

end

/-! ### What an edge does in each state of the qualifier (R56, R58, R59) -/

section
variable {s : State}

theorem activeEdge_waiting (waiting : s.tracker.qualifier = .waiting) :
    s.mapTracker Tracker.activeEdge =
      s.mapTracker fun t => { t with qualifier := .measuring t.epos 0 t.settings.mark } := by
  simp only [State.mapTracker, Tracker.activeEdge, waiting]

theorem activeEdge_busy (busy : s.tracker.qualifier ≠ .waiting) : s.mapTracker Tracker.activeEdge = s := by
  unfold State.mapTracker Tracker.activeEdge
  split
  · exact absurd ‹_› busy
  · rfl
  · rfl

theorem inactiveEdge_waiting (waiting : s.tracker.qualifier = .waiting) : s.inactiveEdge = s := by
  simp only [State.inactiveEdge, waiting]

theorem inactiveEdge_jammed {edge : MarkEdge} (jammed : s.tracker.qualifier = .jammed edge) :
    s.inactiveEdge = s.mapTracker Tracker.wait := by simp only [State.inactiveEdge, jammed]

theorem inactiveEdge_measuring {leading : Word} {width : Nat} {captured : MarkSettings}
    (measuring : s.tracker.qualifier = .measuring leading width captured) :
    s.inactiveEdge = (s.judgeMark leading width captured).mapTracker Tracker.wait := by
  simp only [State.inactiveEdge, measuring]

/-- A count and a change of the tracker do not touch each other. -/
theorem countIn_mapTracker (f : Counts → Counts) (g : Tracker → Tracker) :
    (s.countIn f).mapTracker g = (s.mapTracker g).countIn f := by
  rw [countIn_eq s f, countIn_eq (s.mapTracker g) f, countIn_slots_congr (s := s) (t := s.mapTracker g) rfl]
  rfl

/-! ### The judgement of a mark (R59, R60) -/

theorem tooClose_iff {leading : Word} {previous : Option Word} {gap : Nat} :
    tooClose leading previous gap = true ↔ ∃ p, previous = some p ∧ (leading - p).toNat < gap := by
  cases previous <;> simp [tooClose]

/-- The engine keeps marks but in STOPPED and FAULTED (R60). -/
theorem keepsMarks_iff {e : EngineState} : e.keepsMarks = true ↔ e ≠ .stopped ∧ e ≠ .faulted := by
  cases e <;> simp [EngineState.keepsMarks]

variable {leading : Word} {width : Nat} {captured : MarkSettings}

theorem judgeMark_short (short : width < captured.min) :
    s.judgeMark leading width captured = s.countIn Counts.short := if_pos short

variable (long : captured.min ≤ width)
include long

theorem judgeMark_close (close : ∃ p, s.tracker.previous = some p ∧ (leading - p).toNat < captured.gap) :
    s.judgeMark leading width captured = s.countIn Counts.close :=
  (if_neg (Nat.not_lt.mpr long)).trans (if_pos (tooClose_iff.mpr close))

variable (far : ¬∃ p, s.tracker.previous = some p ∧ (leading - p).toNat < captured.gap)
include far

theorem judgeMark_far : s.judgeMark leading width captured =
    if !s.ctl.engine.keepsMarks then s
    else if Config.markCapacity ≤ s.tracker.marks.length then (s.countIn Counts.dropped).raise .markLost
    else s.mapTracker fun t => t.accept leading captured :=
  (if_neg (Nat.not_lt.mpr long)).trans (if_neg fun close => far (tooClose_iff.mp close))

theorem judgeMark_disregarded (resting : s.ctl.engine = .stopped ∨ s.ctl.engine = .faulted) :
    s.judgeMark leading width captured = s := by
  rw [judgeMark_far long far]
  rcases resting with engine | engine <;> simp [engine, EngineState.keepsMarks]

variable (keeps : s.ctl.engine.keepsMarks = true)
include keeps

theorem judgeMark_dropped (full : 8 ≤ s.tracker.marks.length) :
    s.judgeMark leading width captured = (s.countIn Counts.dropped).raise .markLost := by
  simp [judgeMark_far long far, keeps, full]

theorem judgeMark_accepted (room : s.tracker.marks.length < 8) :
    s.judgeMark leading width captured = s.mapTracker fun t => t.accept leading captured := by
  simp [judgeMark_far long far, keeps, room]

end

/-! ### The polarity in use (R55) -/

theorem edgeInUse_waiting {t : Tracker} (waiting : t.qualifier = .waiting) : t.edgeInUse = t.settings.mark.edge := by
  simp only [Tracker.edgeInUse, waiting]

theorem edgeInUse_measuring {t : Tracker} {leading : Word} {width : Nat} {captured : MarkSettings}
    (measuring : t.qualifier = .measuring leading width captured) : t.edgeInUse = captured.edge := by
  simp only [Tracker.edgeInUse, measuring]

theorem edgeInUse_jammed {t : Tracker} {edge : MarkEdge} (jammed : t.qualifier = .jammed edge) :
    t.edgeInUse = edge := by simp only [Tracker.edgeInUse, jammed]

/-- An inactive edge in MEASURING judges the mark, and the qualifier waits. -/
theorem exec_markInactiveEdge_measuring {s : State} (live : s.pins.resetActive = false) {leading : Word} {width : Nat}
    {captured : MarkSettings} (measuring : s.tracker.qualifier = .measuring leading width captured)
    (active : s.pins.mark = captured.edge.level) :
    exec .markInactiveEdge s =
      .next (((s.markAt !captured.edge.level).judgeMark leading width captured).mapTracker Tracker.wait) := by
  have edge := edgeInUse_measuring measuring
  rw [exec_markInactiveEdge live (by rwa [edge]), edge, inactiveEdge_measuring (s := s.markAt _) measuring]

/-- Settles O20: each edge by the state of the qualifier, and the judgement in the order of R59. -/
theorem markEdges : Obligations.MarkEdges := by
  refine ⟨fun t => ⟨edgeInUse_waiting, fun _ _ _ => edgeInUse_measuring, fun _ => edgeInUse_jammed⟩, ⟨rfl, rfl⟩,
    fun s live => ⟨fun active => ⟨exec_markActiveEdge_none live active, fun waiting => ?_, fun edge jammed => ?_⟩,
      fun inactive => ⟨exec_markInactiveEdge_none live inactive, fun waiting => ?_, fun busy => ?_⟩⟩,
    fun s leading width captured live measuring active => ?judged⟩
  · exact (exec_markInactiveEdge live active).trans (congrArg _ (inactiveEdge_waiting waiting))
  · exact (exec_markInactiveEdge live active).trans (congrArg _ (inactiveEdge_jammed jammed))
  · exact (exec_markActiveEdge live inactive).trans (congrArg _ (activeEdge_waiting waiting))
  · exact (exec_markActiveEdge live inactive).trans (congrArg _ (activeEdge_busy busy))
  case judged =>
    intro ended
    let u := s.markAt !captured.edge.level
    have judged : exec .markInactiveEdge s = .next ((u.judgeMark leading width captured).mapTracker Tracker.wait) :=
      exec_markInactiveEdge_measuring live measuring active
    have waits : u.mapTracker Tracker.wait = ended := rfl
    refine ⟨fun short => ?_, fun long => ⟨fun previous isPrevious close => ?_, fun apart => ?_⟩⟩
    · rw [judged, judgeMark_short short, countIn_mapTracker, waits]
      rfl
    · rw [judged, judgeMark_close (s := u) long ⟨previous, isPrevious, close⟩, countIn_mapTracker, waits]
      rfl
    · have far : ¬∃ p, u.tracker.previous = some p ∧ (leading - p).toNat < captured.gap := by
        rintro ⟨p, isPrevious, close⟩
        exact absurd (apart p isPrevious) (Nat.not_le.mpr close)
      refine ⟨fun resting => ?_, fun notStopped notFaulted => ⟨fun full => ?_, fun room => ?_⟩⟩
      · rw [judged, judgeMark_disregarded (s := u) long far resting, waits]
      · have keeps : u.ctl.engine.keepsMarks = true := keepsMarks_iff.mpr ⟨notStopped, notFaulted⟩
        have counted : (u.countIn Counts.dropped).mapTracker Tracker.wait = ended.countIn Counts.dropped :=
          countIn_mapTracker ..
        have raised : ((u.countIn Counts.dropped).raise .markLost).mapTracker Tracker.wait =
            { ended.countIn Counts.dropped with ctl := { s.ctl with attn := s.ctl.attn ||| 0x80#8 } } := by
          rw [← counted, countIn_eq]
          rfl
        rw [judged, judgeMark_dropped long far keeps full, raised]
        rfl
      · have keeps : u.ctl.engine.keepsMarks = true := keepsMarks_iff.mpr ⟨notStopped, notFaulted⟩
        rw [judged, judgeMark_accepted long far keeps room]
        rfl

end Sys2Proof.Machine

/-! ## O58: the print state, the shift, the head's timers and the engine -/

namespace Sys2Proof.Machine

/-- A head that is on stands outside STOPPED and FAULTED (R107). -/
theorem State.HeadConsistent.notResting {s : State} (h : s.HeadConsistent) (on : s.head.state ≠ .off) :
    s.ctl.engine.resting = false := by
  cases resting : s.ctl.engine.resting with
  | false => rfl
  | true => exact absurd (h.off resting) on

/-! ### Motion and the head events -/

theorem consistent_mapTracker {s : State} (h : s.HeadConsistent) (f) : (s.mapTracker f).HeadConsistent :=
  consistent_of_eq h rfl rfl rfl

theorem consistent_encoderStepped {s : State} (h : s.HeadConsistent) (d) : (s.encoderStepped d).HeadConsistent := by
  unfold State.encoderStepped
  split
  · split
    · exact consistent_mapTracker h _
    · exact consistent_rest (consistent_reverseLimitEvent h)
  · split
    · exact consistent_mapTracker h _
    · exact consistent_rest (consistent_effectiveStep h)

theorem consistent_headLoss {s : State} (h : s.HeadConsistent) : s.headLoss.HeadConsistent := by
  unfold State.headLoss
  split
  · have lost := consistent_loseHead h ‹_›
    refine consistent_rest (consistent_raise ?_ _)
    split
    · exact consistent_faultCounting lost _
    · exact lost
  · exact h

/-- The pulse leaves the link IDLE with its timer stopped (R115). -/
theorem consistent_endShift {s : State} (h : s.HeadConsistent) (k) : (s.endShift k).HeadConsistent :=
  ⟨h.printing, h.divider, fun shifting => absurd rfl shifting, ⟨fun _ => rfl, fun _ => rfl⟩, h.tickle, h.periodTimer,
    h.idleTimer, h.warmup, h.off⟩

/-- A row that is fired was shifted with the head READY, so the idle timer may run again (R113, R117). -/
theorem consistent_fired {s : State} (h : s.HeadConsistent) {codes x a b} (e : s.head.shift = .row codes x a b) :
    (s.fired x a b).HeadConsistent := by
  have ready : s.head.state = .ready := h.shifting (by simp [e])
  exact consistent_restartIdle
    (consistent_tickleOff (consistent_endShift (consistent_mapJob h x fun j => j.fired a b) .fire))
    (by simpa [State.endShift, State.tickleOff])

/-- The idle timer expires with the head READY, and the period timer takes its place (R117, R118). -/
theorem consistent_tickleIdleExpires {s : State} (h : s.HeadConsistent) (ready : s.head.state = .ready) :
    (State.tickleOn { s with head := { s.head with idleTimer := .stopped } }).HeadConsistent :=
  consistent_beginPeriod
    ⟨h.printing, h.divider, h.shifting, h.shiftTimer, fun _ => ready, ⟨nofun, nofun⟩, fun runs => absurd rfl runs,
      h.warmup, h.off⟩ ready

theorem consistent_nextPeriod {s : State} (h : s.HeadConsistent) (active : s.head.tickleActive = true) :
    s.nextPeriod.HeadConsistent :=
  consistent_beginPeriod
    ⟨h.printing, h.divider, h.shifting, h.shiftTimer, h.tickle, ⟨nofun, fun off => by simp [active] at off⟩,
      h.idleTimer, h.warmup, h.off⟩ (h.tickle active)

/-! ### The own steps that a command can name -/

theorem tryHead_of_tryEnd {s t : State} (e : s.tryEnd = some t) : s.tryHead = some t := by
  have taken := e
  unfold State.tryEnd at e
  split at e
  · rename_i queue
    rwa [State.tryHead, queue]
  · cases e

/-- A divider that runs out has the print state IN, and so the head READY (R70). -/
theorem consistent_tryDivider {s t : State} (h : s.HeadConsistent) (e : s.tryDivider = some t) : t.HeadConsistent := by
  obtain ⟨⟨into, -⟩, rfl⟩ : _ ∧ s.dividerExpires = t := by simpa [State.tryDivider] using e
  exact consistent_dividerExpires h (h.printing into)

theorem consistent_enterHeld {s : State} (h : s.HeadConsistent) (it) : (s.enterHeld it).HeadConsistent :=
  consistent_of_eq h (by simp) (by simp) (by simp)

theorem consistent_tryHeld {s t : State} (h : s.HeadConsistent) (e : s.tryHeld = some t) : t.HeadConsistent := by
  unfold State.tryHeld at e
  split at e
  · obtain ⟨-, rfl⟩ := by simpa using e
    exact consistent_enterHeld h _
  · cases e

theorem consistent_tryStage {s t : State} (h : s.HeadConsistent) (e : s.tryStage = some t) : t.HeadConsistent := by
  unfold State.tryStage at e
  split at e
  · obtain ⟨-, rfl⟩ := by simpa using e
    exact consistent_actOn (consistent_of_eq h (t := s.walkOn _) rfl rfl rfl) _ _
  · cases e

/-- A free start finds the head READY (R75). -/
theorem consistent_tryFree {s t : State} (h : s.HeadConsistent) (e : s.tryFree = some t) : t.HeadConsistent := by
  obtain ⟨free, rfl⟩ : s.freeStartReady = true ∧ s.freeStarted = t := by simpa [State.tryFree] using e
  refine consistent_firing h (fun _ => ?_) (by simp [Firing.start])
  unfold State.freeStartReady at free
  split at free
  · simp at free
    exact free.1.2
  · cases free

theorem consistent_tryCompletion {s t : State} (h : s.HeadConsistent) {x} (e : s.tryCompletion x = some t) :
    t.HeadConsistent := by
  obtain ⟨-, rfl⟩ : _ ∧ s.beginCompletion x = t := by simpa [State.tryCompletion] using e
  exact consistent_of_eq h (by simp) (by simp) (by simp)

theorem consistent_tryDrainEnd {s t : State} (h : s.HeadConsistent) (e : s.tryDrainEnd = some t) :
    t.HeadConsistent := by
  obtain ⟨-, rfl⟩ : _ ∧ s.enterStopped = t := by simpa [State.tryDrainEnd] using e
  exact consistent_enterStopped h

theorem consistent_tryLook {s t : State} (h : s.HeadConsistent) (e : s.tryLook = some t) : t.HeadConsistent := by
  obtain ⟨-, rfl⟩ : _ ∧ s.beginLook = t := by simpa [State.tryLook] using e
  exact consistent_of_eq h rfl rfl rfl

theorem consistent_tryGrant {s t : State} (h : s.HeadConsistent) (e : s.tryGrant = some t) : t.HeadConsistent := by
  unfold State.tryGrant at e
  split at e
  · cases e
  · obtain ⟨r, -, rfl⟩ := Option.map_eq_some_iff.mp e
    exact consistent_of_eq h rfl rfl rfl

/-! ### Every command -/

theorem consistent_effect {s : State} (h : s.HeadConsistent) (before : State) (c : Instr) :
    (State.effect before c s).HeadConsistent := by
  cases c with
  | start => exact consistent_doStart h
  | stop => exact consistent_doStop h
  | halt => exact consistent_doHalt h
  | skip => exact consistent_doSkip h
  | look => exact consistent_doLook h
  | reset => exact consistent_resetTo _ _ _ _
  | chainWrite v => exact consistent_writeChain h v
  | attnWrite v => exact consistent_of_eq h rfl rfl rfl
  | attnEnWrite v => exact consistent_of_eq h rfl rfl rfl
  | registerWrite o b v => exact consistent_writeRegister h o b v
  | pinResetAssert => exact consistent_resetTo _ _ _ _
  | pinResetRelease => exact h
  | encoderStep d => exact consistent_encoderStepped (consistent_mapTracker h _) d
  | illegalTransition => exact consistent_raise (consistent_mapTracker h _) _
  | markActiveEdge =>
    simp only [State.effect]
    split
    · exact h
    · exact consistent_mapTracker h _
  | markInactiveEdge => exact keeps_ite State.HeadConsistent (fun _ => consistent_inactiveEdge h) h
  | headPresentInactive => exact keeps_ite State.HeadConsistent (fun _ => consistent_headLoss h) h
  | headPresentActive =>
    simp only [State.effect]
    split
    · exact h
    · exact keeps_ite State.HeadConsistent
        (fun lost => consistent_rest (consistent_beginWarmup h (h.notResting (by simp [lost])) (.inr lost))) h
  | stillTimerExpiry => exact keeps_ite State.HeadConsistent (fun _ => consistent_raise (consistent_mapTracker h _) _) h
  | warmupExpiry =>
    refine keeps_ite State.HeadConsistent (fun ⟨warming, _⟩ => ?_) h
    exact consistent_rest (consistent_enterReady h (h.notResting (by simp [warming])))
  | firePulse =>
    simp only [State.effect]
    split
    · exact consistent_rest (consistent_fired h ‹_›)
    all_goals exact h
  | ticklePulse =>
    simp only [State.effect]
    split
    · exact consistent_endShift h _
    all_goals exact h
  | tickleIdleExpiry =>
    exact keeps_ite State.HeadConsistent (fun ⟨_, ready⟩ => consistent_tickleIdleExpires h ready) h
  | periodTimerExpiry =>
    exact keeps_ite State.HeadConsistent (fun ⟨_, active⟩ => consistent_nextPeriod h active) h
  | pollTimerExpiry =>
    exact keeps_ite State.HeadConsistent (fun _ => consistent_rest (consistent_of_eq h rfl rfl rfl)) h
  | dividerExpiry => exact consistent_orStay h fun _ => consistent_tryDivider h
  | entryReadDone r b => exact consistent_endBuilderRead h _ fun _ k => consistent_entryRead k r b
  | rowReadDone r => exact consistent_endBuilderRead h _ fun _ k => consistent_rowRead k r
  | overlayReadDone r => exact consistent_endBuilderRead h _ fun _ k => consistent_overlayRead k r
  | tableReadDone r => exact consistent_endBuilderRead h _ fun _ k => consistent_tableRead k r
  | setupBlockReadDone r => exact consistent_endBuilderRead h _ fun _ k => consistent_setupBlockRead k r
  | mapReadDone r => exact consistent_endBuilderRead h _ fun _ k => consistent_mapRead k r
  | linkReadDone r => exact consistent_endTransaction h _ fun _ _ k => consistent_linkRead k r
  | stateReadDone r => exact consistent_endTransaction h _ fun _ _ k => consistent_stateRead k r
  | headerReadDone r => exact consistent_endTransaction h _ fun _ _ k => consistent_headerRead k r
  | takeExchangeDone r =>
    exact consistent_endTransaction h _ fun _ _ k => consistent_exchangeDone (consistent_onBus k _) r
  | resultWriteDone r => exact consistent_endTransaction h _ fun tx _ k => consistent_resultWritten k tx r
  | stateUpdateDone r => exact consistent_endTransaction h _ fun tx _ k => consistent_stateUpdated k tx r
  | releaseDone r => exact consistent_endTransaction h _ fun tx _ k => consistent_releaseDone k tx r
  | portGrant => exact consistent_orStay h fun _ => consistent_tryGrant h
  | chainLook => exact consistent_orStay h fun _ => consistent_tryLook h
  | heldItemEnter => exact consistent_orStay h fun _ => consistent_tryHeld h
  | stageWaitEnd => exact consistent_orStay h fun _ => consistent_tryStage h
  | freeStart => exact consistent_orStay h fun _ => consistent_tryFree h
  | endTaken => exact consistent_orStay h fun _ e => consistent_tryHead h (tryHead_of_tryEnd e)
  | completionBegin x => exact consistent_orStay h fun _ => consistent_tryCompletion h
  | drainEnd => exact consistent_orStay h fun _ => consistent_tryDrainEnd h

/-- Settles O58: the effect of every command keeps the head and the firing section consistent; neither the levels on the
lines nor the waiting commands have a part in it. -/
theorem headFiringKept : Obligations.HeadFiringKept :=
  stepKeeps_of_effect (fun _ _ _ h => consistent_of_eq h rfl rfl rfl) (fun _ h => consistent_of_eq h rfl rfl rfl)
    fun c before _ h => consistent_effect h before c

end Sys2Proof.Machine

/-! ## O56: the counting job and its counters -/

namespace Sys2Proof.Machine

/-! ### Counters that stay at their largest value (00_scope 0.5) -/

section
variable {w : Nat} {x : BitVec w}

theorem toNat_satInc_of_lt (below : x.toNat < 2 ^ w - 1) : (satInc x).toNat = x.toNat + 1 := by
  have notMax : x ≠ BitVec.allOnes w := by
    rintro rfl
    simp at below
  have fits : x.toNat + 1 < 2 ^ w := by omega
  rw [satInc, if_neg notMax, BitVec.toNat_add_of_lt]
  · cases w with
    | zero => simp at fits
    | succ n => simp
  · cases w with
    | zero => simp at fits
    | succ n => simpa using fits

theorem satInc_of_max (atMax : x.toNat = 2 ^ w - 1) : satInc x = x :=
  if_pos (BitVec.eq_of_toNat_eq (by simpa using atMax))

theorem toNat_satAdd (x : BitVec w) (n : Nat) : (satAdd x n).toNat = min (x.toNat + n) (2 ^ w - 1) := by
  unfold satAdd
  split
  · rename_i fits
    have small : n < 2 ^ w := by omega
    simp only [BitVec.toNat_add, BitVec.toNat_ofNat, Nat.mod_eq_of_lt small, Nat.mod_eq_of_lt fits]
    omega
  · rw [BitVec.toNat_allOnes]
    omega

end

/-! ### The oldest held job whose completion has not begun (R69) -/

section
variable {s : State} {x : SlotId}

theorem counts_iff : s.counts x = true ↔ ∃ j, s.job x = some j ∧ j.phase ≠ .completing := by
  unfold State.counts
  split <;> simp [*]

theorem oldest_held (oldest : s.slots.oldest = some x) : ∃ j, s.job x = some j := by
  unfold Slots.oldest at oldest
  split at oldest
  · cases oldest
  · cases oldest
    exact ⟨_, ‹_›⟩
  · cases oldest
    exact ⟨_, ‹_›⟩
  · rename_i j0 j1 held0 held1
    cases x with
    | slot0 => exact ⟨j0, held0⟩
    | slot1 => exact ⟨j1, held1⟩

theorem countingJob_none_of_oldest (noJob : s.slots.oldest = none) : s.countingJob = none := by
  simp only [State.countingJob, noJob]

variable (oldest : s.slots.oldest = some x)
include oldest

theorem countingJob_oldest (counts : s.counts x = true) : s.countingJob = some x := by
  simp only [State.countingJob, oldest, if_pos counts]

variable (completing : ¬s.counts x = true)
include completing

theorem countingJob_newer (newer : s.counts (otherSlot x) = true) : s.countingJob = some (otherSlot x) := by
  simp only [State.countingJob, oldest, if_neg completing, if_pos newer]

theorem countingJob_none (noNewer : ¬s.counts (otherSlot x) = true) : s.countingJob = none := by
  simp only [State.countingJob, oldest, if_neg completing, if_neg noNewer]

end

theorem not_counts_of_completing {s : State} {x : SlotId} {j : Job} (held : s.job x = some j)
    (completing : j.phase = .completing) : ¬s.counts x = true := by
  rw [counts_iff, held]
  rintro ⟨_, ⟨⟩, notCompleting⟩
  exact notCompleting completing

/-- Settles O56: the counters by their ranges, the counting job by the phases of the two jobs, and where a count
goes. -/
theorem countingJob : Obligations.CountingJob := by
  refine ⟨⟨fun x => ⟨toNat_satInc_of_lt, satInc_of_max⟩, fun x => ⟨toNat_satInc_of_lt, satInc_of_max⟩, toNat_satAdd⟩,
    fun s => ⟨fun x oldest working => ?_, fun x j oldest held completing =>
      ⟨fun k newer working => ?_, fun noNewer => ?_⟩, countingJob_none_of_oldest⟩,
    fun s f => ⟨countIn_none f, fun x j counting held => ⟨countIn_hits f s counting held, countIn_misses f s ?_⟩⟩⟩
  · obtain ⟨j, held⟩ := oldest_held oldest
    exact countingJob_oldest oldest (counts_iff.mpr ⟨j, held, working j held⟩)
  · exact countingJob_newer oldest (not_counts_of_completing held completing) (counts_iff.mpr ⟨k, newer, working⟩)
  · refine countingJob_none oldest (not_counts_of_completing held completing) fun counts => ?_
    obtain ⟨k, newer, working⟩ := counts_iff.mp counts
    rcases noNewer with free | ⟨k', newer', completing'⟩
    · cases newer.symm.trans free
    · cases newer.symm.trans newer'
      exact working completing'
  · rw [counting]
    exact fun same => otherSlot_ne x (Option.some.inj same).symm

end Sys2Proof.Machine

/-! ## O23: the trim cycle -/

namespace Sys2Proof.Machine

theorem lengthened_iff (trim k : Nat) : lengthened trim k = true ↔ (k - 1) * trim / 16 < k * trim / 16 := by
  simp [lengthened]

/-- The sixteenths that each row adds carry into a whole step at the lengthened rows alone: of the first `n` rows
`n × PITCH_TRIM / 16` are lengthened (R77). -/
theorem length_filter_lengthened {trim : Nat} (small : trim ≤ 15) (n : Nat) :
    ((List.range n).filter fun k => lengthened trim (k + 1)).length = n * trim / 16 := by
  induction n with
  | zero => simp
  | succ n ih =>
    have next : (n + 1) * trim = n * trim + trim := Nat.succ_mul ..
    rw [List.range_succ, List.filter_append, List.length_append, ih, List.filter_singleton]
    by_cases carries : lengthened trim (n + 1) = true
    · have carried : n * trim / 16 < (n + 1) * trim / 16 := (lengthened_iff trim (n + 1)).mp carries
      simp only [carries, cond_true, List.length_singleton]
      omega
    · have level : ¬n * trim / 16 < (n + 1) * trim / 16 := mt (lengthened_iff trim (n + 1)).mpr carries
      simp only [carries, cond_false, List.length_nil]
      omega

/-- Intervals of one pitch, some of them a step longer, add up to the pitches and the steps. -/
theorem sum_map_add_toNat (l : List Nat) (pitch : Nat) (longer : Nat → Bool) :
    (l.map fun k => pitch + (longer k).toNat).sum = l.length * pitch + (l.filter longer).length := by
  induction l with
  | nil => simp
  | cons k l ih =>
    rw [List.map_cons, List.sum_cons, ih, List.filter_cons, List.length_cons, Nat.succ_mul]
    cases longer k <;> simp <;> omega

theorem nextTrim_of_le {k : Nat} (inCycle : k ≤ 16) : nextTrim k = if k = 16 then 1 else k + 1 := by
  have last : 16 ≤ k ↔ k = 16 := by omega
  simp only [nextTrim, last]

/-- Settles O23: 16 rows carry PITCH_TRIM whole steps, and the intervals add up. -/
theorem trimCycle : Obligations.TrimCycle := by
  refine ⟨fun trim small => ⟨?_, ?_⟩, fun f small => ?_, fun k _ inCycle => nextTrim_of_le inCycle, lengthened_iff⟩
  · rw [length_filter_lengthened small]
    omega
  · rw [← Bool.not_eq_true, lengthened_iff]
    omega
  · have sum := sum_map_add_toNat (List.range 16) f.pitch fun k => lengthened f.pitchTrim (k + 1)
    rw [length_filter_lengthened small, List.length_range] at sum
    exact sum.trans (by omega)

end Sys2Proof.Machine

/-! ## O24: free starts -/

namespace Sys2Proof.Machine

/-- The four conditions of a free start (R75). -/
theorem freeStartReady_iff {s : State} : s.freeStartReady = true ↔
    (∃ x row items, s.queue = .row x row :: items) ∧ s.firing.print = .out ∧ s.head.state = .ready ∧
      s.rowShifting = false := by
  unfold State.freeStartReady
  split
  · rename_i x row items queue
    simp [queue, and_assoc]
  · rename_i noRow
    simp only [Bool.false_eq_true, false_iff, not_and]
    rintro ⟨x, row, items, queue⟩
    exact absurd queue (noRow x row items)

/-- Settles O24: the step is made under its four conditions, and without one of them it is not. -/
theorem freeStart : Obligations.FreeStart := by
  intro s live
  refine ⟨fun x row items queue out ready noShift => ?_, fun missing => ?_⟩
  · have can : s.quiet.tryFree = some s.quiet.freeStarted :=
      if_pos (freeStartReady_iff.mpr ⟨⟨x, row, items, queue⟩, out, ready, noShift⟩)
    exact event_makes live can
  · refine event_stays live (step := State.tryFree) (if_neg fun free => ?_)
    obtain ⟨⟨x, row, items, queue⟩, out, ready, noShift⟩ := freeStartReady_iff.mp free
    rcases missing with noRow | into | notReady | shifting
    · exact noRow x row items queue
    · cases out.symm.trans into
    · exact notReady ready
    · cases noShift.symm.trans shifting

end Sys2Proof.Machine

/-! ## O25: the items at the head of the row queue -/

namespace Sys2Proof.Machine

theorem exchange_eq (m : Mapper) : m.exchange = { m with active := if m.active = .a then .b else .a } := by
  cases active : m.active <;> simp [Mapper.exchange, active]

/-- The queue has no part in a change of a job. -/
theorem mapJob_withQueue (s : State) (items : List Item) (x : SlotId) (f : Job → Job) :
    State.mapJob { s with queue := items } x f = { s.mapJob x f with queue := items } := by
  rw [mapJob_eq, mapJob_eq]

/-- The head is taken before any other step of the block's own (log 24). -/
theorem ownStep_head {s t : State} (taken : s.tryHead = some t) : s.ownStep = some t := by
  simp [State.ownStep, taken]

section
variable {s : State} {x : SlotId} {items : List Item}

theorem tryHead_swap (queue : s.queue = .swap x :: items) :
    s.tryHead = some { s with queue := items, mapper := s.mapper.exchange } := by
  simp only [State.tryHead, queue, State.takeSwap, List.tail_cons]

theorem tryHead_setup (queue : s.queue = .setup x :: items) :
    s.tryHead = some (State.applyStaged { s with queue := items }) := by
  simp only [State.tryHead, queue, State.takeSetup, List.tail_cons]

theorem tryHead_hold_into (queue : s.queue = .hold x :: items) (into : s.firing.print = .into) :
    s.tryHead = some s.printOut := by
  simp only [State.tryHead, queue, if_pos into]

theorem tryHead_hold_out (queue : s.queue = .hold x :: items) (out : s.firing.print = .out) : s.tryHead = none := by
  simp [State.tryHead, queue, out]

/-- The state in which the END at the head is taken: its job's completion begins (R73, R88). -/
theorem takeEnd_eq (queue : s.queue = .finish x :: items) : s.takeEnd x =
    State.addTask { s.mapJob x fun j => { j with phase := .completing } with queue := items }
      (.completion x s.tracker.epos) := by
  rw [State.takeEnd, queue, List.tail_cons, State.beginCompletion, State.completing, mapJob_withQueue]
  rfl

theorem tryEnd_free (queue : s.queue = .finish x :: items) (free : s.shifting x = false) :
    s.tryEnd = some (s.takeEnd x) := by
  simp [State.tryEnd, queue, free]

theorem tryEnd_waits (queue : s.queue = .finish x :: items) (shifting : s.shifting x = true) : s.tryEnd = none := by
  simp [State.tryEnd, queue, shifting]

theorem tryEnd_noEnd (noEnd : ∀ y items, s.queue ≠ .finish y :: items) : s.tryEnd = none := by
  unfold State.tryEnd
  split
  · exact absurd ‹_› (noEnd _ _)
  · rfl

theorem tryHead_finish (queue : s.queue = .finish x :: items) : s.tryHead = s.tryEnd := by
  simp only [State.tryHead, queue]

end

/-- Settles O25: each kind of item by what is done with it at the head. -/
theorem headItemsTaken : Obligations.HeadItemsTaken := by
  intro s x items
  refine ⟨fun queue => ?_, fun queue => ownStep_head (tryHead_setup queue),
    fun queue into => ownStep_head (tryHead_hold_into queue into), fun queue free => ?_⟩
  · rw [ownStep_head (tryHead_swap queue), exchange_eq]
  · rw [ownStep_head ((tryHead_finish queue).trans (tryEnd_free queue free)), takeEnd_eq queue]

end Sys2Proof.Machine

/-! ## O53: completions -/

namespace Sys2Proof.Machine

/-- The lines have no part in a change of a job. -/
theorem mapJob_quiet (s : State) (x : SlotId) (f : Job → Job) :
    s.quiet.mapJob x f = { s.mapJob x f with outs := Outputs.none } := by
  rw [mapJob_eq, mapJob_eq]
  rfl

/-- The conditions of a completion that a fault begins (R140). -/
theorem completionReady_iff {s : State} {x : SlotId} {j : Job} (held : s.job x = some j) :
    s.completionReady x = true ↔ j.fault ≠ none ∧ j.phase ≠ .completing ∧ s.builder.job ≠ some x ∧
      s.builder.orphan ≠ some x ∧ s.shifting x = false := by
  simp [State.completionReady, held, Option.isSome_iff_ne_none, and_assoc]

theorem completionReady_free {s : State} {x : SlotId} (free : s.job x = none) : s.completionReady x = false := by
  simp [State.completionReady, free]

/-- Settles O53: an END by the shift of its row, a faulted job by the conditions of R140. -/
theorem completionsBegin : Obligations.CompletionsBegin := by
  intro s x live completing
  have begun : s.quiet.beginCompletion x = completing := by
    rw [State.beginCompletion, State.completing, mapJob_quiet]
    simp [State.addTask, State.completionOf, completing]
  have endStays : s.quiet.tryEnd = none → exec .endTaken s = .next { s with outs := Outputs.none } :=
    event_stays live (step := State.tryEnd)
  have completionStays (not : ¬s.quiet.completionReady x = true) :
      exec (.completionBegin x) s = .next { s with outs := Outputs.none } :=
    event_stays live (step := fun t => t.tryCompletion x) (if_neg not)
  refine ⟨fun items queue => ⟨fun free => ?_, fun shifting => endStays (tryEnd_waits (s := s.quiet) queue shifting)⟩,
    fun noEnd => endStays (tryEnd_noEnd (s := s.quiet) noEnd),
    fun j held => ⟨fun faulted notCompleting built noRead noShift => ?_,
      fun missing => completionStays fun ready => ?_⟩,
    fun free => completionStays ?_⟩
  · have taken : s.quiet.takeEnd x = { completing with queue := items } := by
      rw [takeEnd_eq (s := s.quiet) queue, mapJob_quiet]
      simp [State.addTask, completing]
    exact taken ▸ event_makes live (tryEnd_free (s := s.quiet) queue free)
  · have ready := (completionReady_iff (s := s.quiet) held).mpr ⟨faulted, notCompleting, built, noRead, noShift⟩
    exact begun ▸ event_makes live (step := fun t => t.tryCompletion x) (if_pos ready)
  · obtain ⟨faulted, notCompleting, built, noRead, noShift⟩ := (completionReady_iff (s := s.quiet) held).mp ready
    rcases missing with noFault | isCompleting | building | reading | shifting
    · exact faulted noFault
    · exact notCompleting isCompleting
    · exact built building
    · exact noRead reading
    · cases noShift.symm.trans shifting
  · simp [completionReady_free (s := s.quiet) free]

end Sys2Proof.Machine

/-! ## O22: triggers that are lost -/

namespace Sys2Proof.Machine

/-! ### What a row trigger finds (R78 to R80) -/

section
variable {s : State}

theorem rowTrigger_overspeed (shifting : s.rowShifting = true) :
    s.rowTrigger = s.loseTrigger Counts.overspeed .overspeed := if_pos shifting

variable (noShift : s.rowShifting = false)
include noShift

theorem rowTrigger_row {x : SlotId} {row : Row} {items : List Item} (queue : s.queue = .row x row :: items) :
    s.rowTrigger = State.startRowShift { s with queue := items } x row := by
  simp [State.rowTrigger, noShift, queue]

theorem rowTrigger_underrun (empty : s.queue = []) (building : s.buildingPrint = true) :
    s.rowTrigger = s.loseTrigger Counts.underrun .underrun := by
  simp [State.rowTrigger, noShift, empty, building]

theorem rowTrigger_streamEnd (empty : s.queue = []) (built : s.buildingPrint = false) :
    s.rowTrigger = s.printOut := by
  simp [State.rowTrigger, noShift, empty, built]

end

/-- The builder has a print job when its job is held with KIND PRINT (R80, R123). -/
theorem buildingPrint_iff (s : State) :
    s.buildingPrint = true ↔ ∃ x j, s.builder.job = some x ∧ s.job x = some j ∧ j.kind = 1#2 := by
  unfold State.buildingPrint
  split
  · simp [*]
  · split <;> simp [*, isPrintKind]

/-! ### What becomes of a lost trigger (R81) -/

section
variable {s : State} (f : Counts → Counts) (code : FaultCode)

theorem loseTrigger_none (noJob : s.countingJob = none) : s.loseTrigger f code = s := by
  simp [State.loseTrigger, State.countingStrict, noJob, countIn_none f noJob]

variable {x : SlotId} {j : Job} (counting : s.countingJob = some x) (held : s.job x = some j)
include counting held

theorem countingStrict_eq : s.countingStrict = j.strict := by
  simp only [State.countingStrict, counting, held]

/-- A job that is not STRICT is spared, and so is one that carries a fault already (R139). -/
theorem loseTrigger_spared (spared : j.strict = false ∨ j.fault ≠ none) : s.loseTrigger f code = s.countIn f := by
  unfold State.loseTrigger
  split
  · rename_i strict
    rw [countingStrict_eq counting held] at strict
    rcases spared with lenient | faulted
    · cases lenient.symm.trans strict
    · rw [faultCounting_some code ((countingJob_countIn s f).trans counting)]
      exact takeFault_none code 0 (countIn_hits f s counting held) faulted
  · rfl

theorem loseTrigger_strict (strict : j.strict = true) :
    s.loseTrigger f code = (s.countIn f).takeFault x code 0 := by
  rw [State.loseTrigger, if_pos ((countingStrict_eq counting held).trans strict),
    faultCounting_some code ((countingJob_countIn s f).trans counting)]

end

/-- The counting job's first fault makes the print state OUT (R86). -/
theorem takeFault_printOut {s : State} {x : SlotId} {j : Job} (counting : s.countingJob = some x)
    (held : s.job x = some j) (unfaulted : j.fault = none) (code : FaultCode) (entry : Nat) :
    (s.takeFault x code entry).firing.print = .out := by
  have faultable := faultable_of held unfaulted (counting_phase counting held)
  simp [State.takeFault, faultable, counting]

/-! ### The reload behind a trigger (R70, R76, log 14) -/

section
variable {s t : State} (trigger : s.rowTrigger = t)
include trigger

theorem dividerExpires_into (into : t.firing.print = .into) :
    s.dividerExpires = { t with firing := t.firing.reload } := by
  rw [State.dividerExpires, trigger]
  exact if_pos into

theorem dividerExpires_out (out : t.firing.print = .out) : s.dividerExpires = t := by
  rw [State.dividerExpires, trigger]
  exact if_neg (by simp [out])

end

/-- The expiry of the divider as a command, followed to rest. -/
theorem exec_dividerExpiry_zero {s t : State} (live : s.pins.resetActive = false) (into : s.firing.print = .into)
    (zero : s.firing.divider = some 0) (expires : s.quiet.dividerExpires = t) :
    exec .dividerExpiry s = .next t.rest :=
  event_makes live (step := State.tryDivider) ((if_pos ⟨into, zero⟩).trans (congrArg some expires))

/-- A trigger that is lost: the divider is reloaded, unless a STRICT job takes its fault. -/
theorem exec_dividerExpiry_lost {s : State} (live : s.pins.resetActive = false) (into : s.firing.print = .into)
    (zero : s.firing.divider = some 0) {f : Counts → Counts} {code : FaultCode}
    (trigger : s.quiet.rowTrigger = s.quiet.loseTrigger f code) :
    (s.countingJob = none →
      exec .dividerExpiry s = .next (State.rest { s.quiet with firing := s.firing.reload })) ∧
    ∀ x j, s.countingJob = some x → s.job x = some j →
      (j.strict = false ∨ j.fault ≠ none →
        exec .dividerExpiry s = .next (State.rest { s.quiet.countIn f with firing := s.firing.reload })) ∧
      (j.strict = true → j.fault = none →
        exec .dividerExpiry s = .next ((s.quiet.countIn f).takeFault x code 0).rest) := by
  have expires {t : State} := @exec_dividerExpiry_zero s t live into zero
  refine ⟨fun noJob => expires ?_, fun x j counting held => ?_⟩
  · exact dividerExpires_into (trigger.trans (loseTrigger_none (s := s.quiet) f code noJob)) into
  · have countingNow : (s.quiet.countIn f).countingJob = some x := (countingJob_countIn s.quiet f).trans counting
    refine ⟨fun spared => expires ?_, fun strict unfaulted => expires ?_⟩
    · have counted := loseTrigger_spared (s := s.quiet) f code counting held spared
      simpa using dividerExpires_into (trigger.trans counted) (by simpa)
    · have faults := loseTrigger_strict (s := s.quiet) f code counting held strict
      exact dividerExpires_out (trigger.trans faults)
        (takeFault_printOut countingNow (countIn_hits f s.quiet counting held) unfaulted _ _)

/-- Settles O22: the trigger by what it finds, and a lost one by the counting job. -/
theorem triggersLost : Obligations.TriggersLost := by
  refine ⟨buildingPrint_iff, fun s live into zero =>
    ⟨fun shifting => ?_, fun noShift empty building => ?_, fun noShift empty built => ?_⟩⟩
  · exact exec_dividerExpiry_lost live into zero (rowTrigger_overspeed (s := s.quiet) shifting)
  · exact exec_dividerExpiry_lost live into zero (rowTrigger_underrun (s := s.quiet) noShift empty building)
  · exact exec_dividerExpiry_zero live into zero
      (dividerExpires_out (s := s.quiet) (rowTrigger_streamEnd noShift empty built) rfl)

end Sys2Proof.Machine

/-! ## O21: row triggers that take a row -/

namespace Sys2Proof.Machine

/-! ### A row shift that begins (R95, R113, R114) -/

/-- The shift of a row, with the codes of the bank, the mask and the map then active (R95). -/
def Mapper.shiftOf (m : Mapper) (x : SlotId) (row : Row) : Shift :=
  .row (m.mapRow row).codes x (m.mapRow row).substitutions (m.mapRow row).lostDots

/-- The head link right after a shift has begun in it that makes tickle inactive. -/
def HeadLink.shiftBegun (h : HeadLink) (shift : Shift) (dat : BitVec 4) : HeadLink :=
  { h with
    shift := shift
    shiftTimer := .running (10 * 2 ^ h.settings.linkRate)
    dat := dat
    tickleActive := false
    periodTimer := .stopped
    periodCount := 0 }

/-- A row shift begins with no row shift in flight: a tickle shift gives way to it, with its pulse on HL_CLR. -/
theorem startRowShift_eq {s : State} (noShift : s.rowShifting = false) (x : SlotId) (row : Row) :
    s.startRowShift x row =
      { s with
        head := s.head.shiftBegun (s.mapper.shiftOf x row) s.datLevel
        outs := { s.outs with clr := s.outs.clr + if s.head.shift = .idle then 0 else 1 }
        free := if s.head.shift = .idle then s.free else s.free + 1 } := by
  cases shift : s.head.shift with
  | idle => simp [State.startRowShift, State.abortShift, State.datLevel, shift]; rfl
  | tickle pattern => simp [State.startRowShift, State.abortShift, State.datLevel, shift]; rfl
  | row codes y a b => simp [State.rowShifting, shift] at noShift

/-- The state right after a trigger has taken the ROW at the head. -/
def State.rowTaken (s : State) (x : SlotId) (row : Row) (items : List Item) : State :=
  { s with
    queue := items
    head := s.head.shiftBegun (s.mapper.shiftOf x row) s.datLevel
    outs := { s.outs with clr := s.outs.clr + if s.head.shift = .idle then 0 else 1 }
    free := if s.head.shift = .idle then s.free else s.free + 1
    firing := s.firing.reload }

theorem dividerExpires_row {s : State} {x : SlotId} {row : Row} {items : List Item} (noShift : s.rowShifting = false)
    (into : s.firing.print = .into) (queue : s.queue = .row x row :: items) :
    s.dividerExpires = s.rowTaken x row items := by
  have taken := (rowTrigger_row noShift queue).trans (startRowShift_eq (s := { s with queue := items }) noShift x row)
  exact dividerExpires_into taken into

/-! ### A row shift through the block's own steps (log 1) -/

/-- A row shift runs, with tickle inactive. -/
structure HeadLink.Shifts (h : HeadLink) (shift : Shift) (timer : Timer) : Prop where
  shift : h.shift = shift
  shiftTimer : h.shiftTimer = timer
  tickle : h.tickleActive = false
  periodTimer : h.periodTimer = .stopped
  periodCount : h.periodCount = 0

theorem applyHeadSetup_shifts {s : State} {shift : Shift} {timer : Timer} (h : s.head.Shifts shift timer) (p) :
    (s.applyHeadSetup p).head.Shifts shift timer := by
  unfold State.applyHeadSetup
  dsimp only
  split
  · exact ⟨h.shift, h.shiftTimer, rfl, rfl, rfl⟩
  · exact ⟨h.shift, h.shiftTimer, h.tickle, h.periodTimer, h.periodCount⟩

theorem applyStaged_shifts {s : State} {shift : Shift} {timer : Timer} (h : s.head.Shifts shift timer) :
    s.applyStaged.head.Shifts shift timer := by
  unfold State.applyStaged State.applyParams
  split
  · exact h
  all_goals
    refine applyHeadSetup_shifts ?_ _
    exact h

/-- An item taken at the head changes the head link by a SETUP alone. -/
theorem tryHead_shifts {s t : State} {shift : Shift} {timer : Timer} (h : s.head.Shifts shift timer)
    (e : s.tryHead = some t) : t.head.Shifts shift timer := by
  unfold State.tryHead State.tryEnd at e
  repeat' split at e
  all_goals cases e
  · exact h
  · exact applyStaged_shifts (s := { s with queue := s.queue.tail }) h
  · exact h
  · simpa using h

theorem tryCompletion_headLink {s t : State} {x : SlotId} (e : s.tryCompletion x = some t) : t.head = s.head := by
  obtain ⟨-, rfl⟩ : _ ∧ s.beginCompletion x = t := by simpa [State.tryCompletion] using e
  simp

/-- Of the block's own steps, an item at the head, the expiry of the divider and the end of a drain can change the head
link. -/
theorem ownStep_headLink {s t : State} (e : s.ownStep = some t) :
    s.tryHead = some t ∨ s.tryDivider = some t ∨ s.tryDrainEnd = some t ∨ t.head = s.head := by
  have others (same : t.head = s.head) :
      s.tryHead = some t ∨ s.tryDivider = some t ∨ s.tryDrainEnd = some t ∨ t.head = s.head := .inr (.inr (.inr same))
  rcases ownStep_cases e with head | divider | held | stage | walk | free | completions | drain | look | write | want |
    grant
  · exact .inl head
  · exact .inr (.inl divider)
  · unfold State.tryHeld at held
    split at held
    · obtain ⟨-, rfl⟩ := by simpa using held
      exact others (by simp)
    · cases held
  · unfold State.tryStage at stage
    split at stage
    · obtain ⟨-, rfl⟩ := by simpa using stage
      exact others (by simp)
    · cases stage
  · unfold State.tryWalk at walk
    split at walk
    · obtain ⟨-, rfl⟩ := by simpa using walk
      exact others (by simp)
    · cases walk
  · obtain ⟨-, rfl⟩ : _ ∧ s.freeStarted = t := by simpa [State.tryFree] using free
    exact others rfl
  · unfold State.tryCompletions at completions
    split at completions
    · cases completions
      exact others (by simp)
    · rcases Option.or_eq_some_iff.mp completions with first | ⟨-, second⟩
      · exact others (tryCompletion_headLink first)
      · exact others (tryCompletion_headLink second)
  · exact .inr (.inr (.inl drain))
  · obtain ⟨-, rfl⟩ : _ ∧ s.beginLook = t := by simpa [State.tryLook] using look
    exact others rfl
  · unfold State.tryWriter at write
    split at write
    · cases write
    · obtain ⟨_, -, rfl⟩ := Option.map_eq_some_iff.mp write
      exact others rfl
  · unfold State.tryWant at want
    split at want
    · cases want
    · obtain ⟨_, -, rfl⟩ := Option.map_eq_some_iff.mp want
      exact others rfl
  · unfold State.tryGrant at grant
    split at grant
    · cases grant
    · obtain ⟨_, -, rfl⟩ := Option.map_eq_some_iff.mp grant
      exact others rfl

section
variable {s : State} {codes : List (BitVec 2)} {y : SlotId} {a b : Nat} {timer : Timer}
  (h : s.head.Shifts (.row codes y a b) timer) {x : SlotId} (held : s.job x ≠ none)
include h held

/-- While a row is shifted and a job is held, a trigger is an overspeed, and no drain ends. -/
theorem ownStep_shifts {t : State} (e : s.ownStep = some t) : t.head.Shifts (.row codes y a b) timer := by
  rcases ownStep_headLink e with e | e | e | same
  · exact tryHead_shifts h e
  · obtain ⟨-, rfl⟩ : _ ∧ s.dividerExpires = t := by simpa [State.tryDivider] using e
    have shifting : s.rowShifting = true := by simp [State.rowShifting, h.shift]
    have same : s.dividerExpires.head = s.head := by
      simp only [State.dividerExpires, rowTrigger_overspeed shifting]
      split <;> simp
    rwa [same]
  · obtain ⟨draining, -⟩ : _ ∧ s.enterStopped = t := by simpa [State.tryDrainEnd] using e
    exact absurd draining (not_quiet (.inr ⟨x, held⟩))
  · rwa [same]

/-- So the shift runs on through any number of own steps, which give no pulse on HL_FIRE. -/
theorem restFor_shifts (n : Nat) :
    (State.restFor n s).head.Shifts (.row codes y a b) timer ∧ (State.restFor n s).outs.fire = s.outs.fire := by
  have all := restFor_keeps (P := fun t => s.Kept t ∧ t.head.Shifts (.row codes y a b) timer)
    (fun u v ⟨kept, shifts⟩ own => by
      obtain ⟨j, held⟩ := Option.ne_none_iff_exists'.mp held
      obtain ⟨k, heldNow, -⟩ := (kept.jobs x).2 j held
      exact ⟨kept.trans (kept_ownStep own), ownStep_shifts shifts (heldNow ▸ Option.some_ne_none k) own⟩)
    n s ⟨.refl s, h⟩
  exact ⟨all.2, all.1.fire⟩

end

theorem rest_of_ownStep {s t : State} (own : s.ownStep = some t) : s.rest = State.restFor 63 t := by
  rw [State.rest, show restBound = 63 + 1 from rfl, State.restFor, own]

/-! ### The ROW behind a HOLD that a product start takes away (R83) -/

section
variable {s : State} {x y : SlotId} {items : List Item} (due : s.tracker.advance.due = true)
  (counting : s.countingJob = some x) (out : s.firing.print = .out) (ready : s.head.state = .ready)
  (queue : s.queue = .hold y :: items)
include due counting out ready queue

/-- The accepted start leaves the counter at 0, for the immediate trigger of row 1. -/
theorem effectiveStep_accepts : s.effectiveStep.queue = items ∧
    s.effectiveStep.firing = { s.firing with print := .into, divider := some 0, trimIndex := 1 } := by
  have accepted : s.tracked.productStart = s.tracked.acceptProduct :=
    productStart_accepted (y := y) (items := items) (tracked_countingJob.trans counting) (by simpa) (by simpa)
      (by simpa)
  have notInto : ¬s.tracked.firing.print = .into := by simp [out]
  rw [effectiveStep_eq, due, State.fireStep, if_neg notInto, if_pos rfl, accepted]
  simp [State.acceptProduct, queue, Firing.start]

end

theorem counts_of_counting {s : State} {x : SlotId} (counting : s.countingJob = some x) : s.counts x = true := by
  unfold State.countingJob at counting
  split at counting
  · cases counting
  · split at counting
    · cases counting
      assumption
    · split at counting
      · cases counting
        assumption
      · cases counting

theorem countingJob_held {s : State} {x : SlotId} (counting : s.countingJob = some x) : s.job x ≠ none := by
  obtain ⟨j, held, -⟩ := counts_iff.mp (counts_of_counting counting)
  exact held ▸ Option.some_ne_none j

/-- Settles O21: the ROW taken at the expiry of the divider, and the one behind the HOLD of an accepted start; then the
shift through the own steps that follow. -/
theorem rowTriggersTakeRows : Obligations.RowTriggersTakeRows := by
  refine ⟨fun s x row items live into zero noShift queue => ?expiry,
    fun s position rest x y z row items live noDebt marks isReached counting out ready queue noShift => ?start⟩
  case expiry =>
    let taken := s.quiet.rowTaken x row items
    have expires : exec .dividerExpiry s = .next taken.rest :=
      exec_dividerExpiry_zero live into zero (dividerExpires_row (s := s.quiet) noShift into queue)
    refine ⟨expires.trans ?_, fun held => ⟨_, expires, ?_⟩⟩
    · simp only [taken, State.rowTaken, quiet_outs, Outputs.none, Nat.zero_add]
      rfl
    · obtain ⟨runs, fire⟩ := restFor_shifts (s := taken) ⟨rfl, rfl, rfl, rfl, rfl⟩ held restBound
      exact ⟨runs.shift, runs.shiftTimer, runs.tickle, runs.periodTimer, runs.periodCount, fire⟩
  case start =>
    intro shift
    let u := s.linesAt s.pins.enc.forward
    let started := u.effectiveStep
    have event : exec (.encoderStep .forward) s = .next started.rest := exec_effectiveStep live noDebt
    have due : u.tracker.advance.due = true := (due_advance_cons (t := u.tracker) marks).trans isReached
    obtain ⟨startedQueue, startedFiring⟩ := effectiveStep_accepts (s := u) due counting out ready queue
    have head : started.head = s.head := effectiveStep_head u
    have outs : started.outs = Outputs.none := effectiveStep_outs u
    have codes : started.mapper.shiftOf z row = shift := congrArg (·.shiftOf z row) (effectiveStep_mapper u)
    have into : started.firing.print = .into := congrArg Firing.print startedFiring
    have idle : started.rowShifting = false := by
      rw [← noShift, State.rowShifting, head, State.rowShifting]
    have own : started.ownStep = some (started.rowTaken z row items) :=
      (ownStep_divider (tryHead_waits (.inr (.inl ⟨z, row, items, startedQueue⟩))) into
        (congrArg Firing.divider startedFiring)).trans (congrArg some (dividerExpires_row idle into startedQueue))
    have held : started.job x ≠ none :=
      fun free => countingJob_held (s := u) counting (effectiveStep_job_none_iff.mp free)
    refine ⟨⟨started, _, event, startedQueue, head, startedFiring, own, rfl, codes, ?_⟩, _, event, ?_⟩
    · have triggered : (started.rowTaken z row items).firing = started.firing.reload := rfl
      rw [triggered, startedFiring]
      rfl
    · obtain ⟨runs, fire⟩ := restFor_shifts (s := started.rowTaken z row items)
        (timer := .running (10 * 2 ^ s.head.settings.linkRate))
        ⟨codes, by rw [← head]; rfl, rfl, rfl, rfl⟩ held 63
      rw [rest_of_ownStep own]
      exact ⟨runs.shift, runs.shiftTimer, runs.tickle, runs.periodTimer, runs.periodCount,
        fire.trans (congrArg Outputs.fire outs)⟩

end Sys2Proof.Machine

/-! ## O27: the loss of the head -/

namespace Sys2Proof.Machine

/-! ### A shift that is aborted (R116) -/

section
variable (s : State)

theorem rowShifting_iff : s.rowShifting = true ↔ ∃ x, s.shifting x = true := by
  unfold State.rowShifting State.shifting
  cases s.head.shift <;> simp

/-- The link is left IDLE, its timer stopped and HL_CLR pulsed once, when a shift was in flight. -/
theorem abortShift_link :
    s.abortShift.head.shiftTimer = (if s.head.shift = .idle then s.head.shiftTimer else .stopped) ∧
    s.abortShift.head.settings = s.head.settings ∧
    s.abortShift.outs = { s.outs with clr := s.outs.clr + if s.head.shift = .idle then 0 else 1 } := by
  cases shift : s.head.shift <;> simp [State.abortShift, shift, State.stopShift]

/-- The row in flight is discarded, in the account of its job. -/
theorem abortShift_job (x : SlotId) : s.abortShift.job x = (s.job x).map fun j =>
    { j with account := { j.account with discarded := j.account.discarded + s.rowsShifting x } } := by
  cases shift : s.head.shift with
  | idle => simp [State.abortShift, shift, State.rowsShifting, State.shifting]
  | tickle => simp [State.abortShift, shift, State.rowsShifting, State.shifting, State.stopShift, State.job]
  | row codes y a b =>
    have aborted : s.abortShift = s.stopShift.discardRows y 1 := by simp only [State.abortShift, shift]
    rw [aborted, discardRows_job, State.rowsShifting, State.shifting, shift]
    by_cases own : x = y
    · subst own
      simp [State.job, State.stopShift]
    · have other : (y == x) = false := by simpa using Ne.symm own
      simp [own, other, State.job, State.stopShift]

theorem abortShift_slots (noShift : s.rowShifting = false) : s.abortShift.slots = s.slots := by
  cases shift : s.head.shift with
  | idle | tickle => simp [State.abortShift, shift]
  | row => simp [State.rowShifting, shift] at noShift

end

/-! ### The counting job as others begin their completion (R69) -/

theorem countingJob_of_counts {s t : State} (order : s.SameOrder t) (counts : ∀ x, t.counts x = s.counts x) :
    t.countingJob = s.countingJob := by
  simp only [State.countingJob, order.oldest, counts]

theorem countingJob_abortShift (s : State) : s.abortShift.countingJob = s.countingJob := by
  refine countingJob_of_counts (sameOrder_abortShift s) fun x => ?_
  rw [State.counts, State.counts, abortShift_job]
  cases s.job x <;> rfl

theorem eq_otherSlot {x y : SlotId} (different : y ≠ x) : y = otherSlot x := by
  cases x <;> cases y <;> simp_all [otherSlot]

/-- With no job that counts there is no counting job. -/
theorem countingJob_eq_none {s : State} (noneCounts : ∀ y, ¬s.counts y = true) : s.countingJob = none := by
  cases counting : s.countingJob with
  | none => rfl
  | some y => exact absurd (counts_of_counting counting) (noneCounts y)

/-- With no oldest job no slot is held. -/
theorem job_none_of_oldest {s : State} (noJob : s.slots.oldest = none) (y : SlotId) : s.job y = none := by
  unfold Slots.oldest at noJob
  split at noJob
  · cases y <;> assumption
  all_goals cases noJob

/-- The only job that counts is the counting job. -/
theorem countingJob_eq_only {s : State} {y : SlotId} (counts : s.counts y = true)
    (only : ¬s.counts (otherSlot y) = true) : s.countingJob = some y := by
  cases oldest : s.slots.oldest with
  | none =>
    obtain ⟨j, held, -⟩ := counts_iff.mp counts
    cases held.symm.trans (job_none_of_oldest oldest y)
  | some x =>
    by_cases same : y = x
    · subst same
      exact countingJob_oldest oldest counts
    · have newer := eq_otherSlot same
      have older : x = otherSlot y := eq_otherSlot (Ne.symm same)
      subst older
      rw [newer] at counts ⊢
      exact countingJob_newer oldest only counts

/-! ### A fault of the counting job (R69, R139) -/

section
variable {s : State} (code : FaultCode)

theorem takeFault_firing (s : State) (x : SlotId) (code : FaultCode) (entry : Nat) :
    (s.takeFault x code entry).firing = s.firing ∨ (s.takeFault x code entry).firing = s.printOut.firing := by
  simp only [State.takeFault]
  repeat' split
  all_goals simp [State.printOut]

/-- With the print state OUT a fault leaves the firing section as it is. -/
theorem faultCounting_firing (out : s.firing.print = .out) (stopped : s.firing.divider = none) :
    (s.faultCounting code).firing = s.firing := by
  have still : s.printOut.firing = s.firing := by rw [State.printOut, ← out, ← stopped]
  unfold State.faultCounting
  split
  · rfl
  · rcases takeFault_firing s _ code 0 with same | printOut
    · exact same
    · exact printOut.trans still

/-- A job that is COMPLETING is not the counting job. -/
theorem faultCounting_completing {x : SlotId} {j : Job} (held : s.job x = some j) (completing : j.phase = .completing) :
    (s.faultCounting code).job x = some j := by
  unfold State.faultCounting
  split
  · exact held
  · rename_i y counting
    have different : x ≠ y := by
      rintro rfl
      exact counting_phase counting held completing
    cases faultable : s.faultable y with
    | false => rw [takeFault_no faultable, held]
    | true => rw [(takeFault_spec faultable code 0).other x different, held]

variable {x : SlotId} {j : Job} (counting : s.countingJob = some x) (held : s.job x = some j)
include counting held

/-- The counting job takes its first fault, and its items leave the queue; a fault that it carries it keeps. -/
theorem faultCounting_job : ∃ j', (s.faultCounting code).job x = some j' ∧
    j'.fault = (if j.fault = none then some (code, 0) else j.fault) ∧
    j'.account.discarded = j.account.discarded + (if j.fault = none then s.rowsQueued x else 0) ∧
    (j.fault = none → (s.faultCounting code).queue = s.queue.filter fun it => it.slot != x) := by
  rw [faultCounting_some code counting]
  by_cases unfaulted : j.fault = none
  · have taken := takeFault_spec (faultable_of held unfaulted (counting_phase counting held)) code 0
    obtain ⟨k, heldThere, -, -, now⟩ := taken.job
    cases held.symm.trans heldThere
    exact ⟨_, now, (if_pos unfaulted).symm, by rw [if_pos unfaulted], fun _ => taken.queue⟩
  · rw [takeFault_none code 0 held unfaulted]
    exact ⟨j, held, (if_neg unfaulted).symm, by rw [if_neg unfaulted, Nat.add_zero], fun none => absurd none unfaulted⟩

end

/-! ### What comes to the head as the shift is aborted (R73, R85, log 21) -/

/-- An item that stays at the head once the print state is OUT, or no item. -/
def staysAtHead (queue : List Item) : Prop :=
  queue = [] ∨ (∃ x row items, queue = .row x row :: items) ∨ ∃ x items, queue = .hold x :: items

theorem takeHeads_none {s : State} (waits : s.tryHead = none) (n : Nat) : State.takeHeads n s = s := by
  cases n with
  | zero => rfl
  | succ n => rw [State.takeHeads, waits]

theorem takeHeads_some {s t : State} (taken : s.tryHead = some t) (n : Nat) :
    State.takeHeads (n + 1) s = State.takeHeads n t := by rw [State.takeHeads, taken]

/-- At most the print state becomes OUT, at a HOLD. -/
theorem takeHeads_stays {s : State} (stays : staysAtHead s.queue) (n : Nat) :
    State.takeHeads n s = s ∨ State.takeHeads n s = s.printOut := by
  rcases stays with empty | ⟨x, row, items, queue⟩ | ⟨x, items, queue⟩
  · exact .inl (takeHeads_none (tryHead_waits (.inl empty)) n)
  · exact .inl (takeHeads_none (tryHead_waits (.inr (.inl ⟨x, row, items, queue⟩))) n)
  · cases print : s.firing.print with
    | out => exact .inl (takeHeads_none (tryHead_hold_out queue print) n)
    | into =>
      cases n with
      | zero => exact .inl rfl
      | succ n =>
        rw [takeHeads_some (tryHead_hold_into queue print)]
        exact .inr (takeHeads_none (tryHead_hold_out (s := s.printOut) queue rfl) n)

/-- The head LOST with its timers stopped, and the print state OUT (R109, steps 2 and 3). -/
def State.dropHead (s : State) : State := ((s.stopHeadTimers).setHead .lost).printOut

@[simp] theorem dropHead_frame (s : State) : s.dropHead.slots = s.slots ∧ s.dropHead.queue = s.queue ∧
    s.dropHead.builder = s.builder ∧ s.dropHead.writer = s.writer ∧ s.dropHead.tracker = s.tracker ∧
    s.dropHead.mapper = s.mapper ∧ s.dropHead.head.settings = s.head.settings :=
  ⟨rfl, rfl, rfl, rfl, rfl, rfl, rfl⟩

theorem dropHead_job (s : State) (x : SlotId) : s.dropHead.job x = s.job x := job_congr (dropHead_frame s).1 x

theorem dropHead_countingJob (s : State) : s.dropHead.countingJob = s.countingJob :=
  countingJob_congr (dropHead_frame s).1

theorem loseHead_eq (s : State) : s.loseHead = s.shiftLost.dropHead := rfl

section
variable {s : State}

/-- No item is taken at the abort. -/
theorem loseHead_noItem (noItem : s.rowShifting = false ∨ staysAtHead s.queue) :
    s.loseHead = s.abortShift.dropHead := by
  rw [loseHead_eq, State.shiftLost]
  split
  · rename_i shifting
    have stays : staysAtHead s.abortShift.queue := by
      rcases noItem with noShift | stays
      · cases noShift.symm.trans shifting
      · simpa using stays
    rcases takeHeads_stays stays Config.queueCapacity with same | out
    · rw [same]
    · rw [out]
      rfl
  · rfl

/-- An END that waits for the aborted row is taken, and the item behind it stays. -/
theorem loseHead_end {x : SlotId} {items : List Item} (queue : s.queue = .finish x :: items)
    (shifting : s.shifting x = true) (stays : staysAtHead items) :
    s.loseHead = (s.abortShift.takeEnd x).dropHead := by
  have queueNow : s.abortShift.queue = .finish x :: items := by simpa using queue
  have taken : s.abortShift.tryHead = some (s.abortShift.takeEnd x) :=
    (tryHead_finish queueNow).trans (tryEnd_free queueNow (shifting_abort s x))
  have behind : (s.abortShift.takeEnd x).queue = items := by rw [takeEnd_eq queueNow]; rfl
  rw [loseHead_eq, State.shiftLost, if_pos ((rowShifting_iff s).mpr ⟨x, shifting⟩),
    show Config.queueCapacity = 7 + 1 from rfl, takeHeads_some taken]
  rcases takeHeads_stays (s := s.abortShift.takeEnd x) (behind ▸ stays) 7 with same | out
  · rw [same]
  · rw [out]
    rfl

end

/-! ### What every loss of the head gives (R109) -/

/-- The head, the firing section and the lines after a loss of the head. -/
structure State.HeadGone (s t : State) : Prop where
  state : t.head.state = .lost
  shift : t.head.shift = .idle
  shiftTimer : t.head.shiftTimer = if s.head.shift = .idle then s.head.shiftTimer else .stopped
  warmupTimer : t.head.warmupTimer = .stopped
  idleTimer : t.head.idleTimer = .stopped
  periodTimer : t.head.periodTimer = .stopped
  tickle : t.head.tickleActive = false
  periodCount : t.head.periodCount = 0
  print : t.firing.print = .out
  divider : t.firing.divider = none
  trimIndex : t.firing.trimIndex = s.firing.trimIndex
  outs : t.outs = { s.outs with clr := s.outs.clr + if s.head.shift = .idle then 0 else 1 }
  ctl : t.ctl = s.ctl
  pins : t.pins = s.pins

theorem tryHead_trimIndex {s t : State} (e : s.tryHead = some t) : t.firing.trimIndex = s.firing.trimIndex := by
  unfold State.tryHead State.tryEnd at e
  repeat' split at e
  all_goals cases e
  · rfl
  · unfold State.takeSetup State.applyStaged
    split
    · rfl
    all_goals simp [State.applyParams, Firing.applySetup]
  · rfl
  · simp

/-- With the shift aborted, the rest is the drop of the head. -/
theorem headGone_dropHead {s u : State} (shift : u.head.shift = .idle)
    (shiftTimer : u.head.shiftTimer = if s.head.shift = .idle then s.head.shiftTimer else .stopped)
    (trimIndex : u.firing.trimIndex = s.firing.trimIndex)
    (outs : u.outs = { s.outs with clr := s.outs.clr + if s.head.shift = .idle then 0 else 1 })
    (ctl : u.ctl = s.ctl) (pins : u.pins = s.pins) : s.HeadGone u.dropHead :=
  ⟨rfl, shift, shiftTimer, rfl, rfl, rfl, rfl, rfl, rfl, rfl, trimIndex, outs, ctl, pins⟩

theorem headGone_loseHead (s : State) : s.HeadGone s.loseHead := by
  obtain ⟨timer, -, outs⟩ := abortShift_link s
  obtain ⟨shift, shiftTimer, trimIndex, pulses⟩ := shiftLost_keeps (s := s)
    (P := fun t => t.head.shift = .idle ∧ t.head.shiftTimer = s.abortShift.head.shiftTimer ∧
      t.firing.trimIndex = s.firing.trimIndex ∧ t.outs = s.abortShift.outs)
    (fun u v ⟨shift, shiftTimer, trimIndex, pulses⟩ e => by
      obtain ⟨sameShift, -, sameTimer, -⟩ := tryHead_head e
      obtain ⟨-, -, -, -, sameOuts, -⟩ := tryHead_frame e
      exact ⟨sameShift.trans shift, sameTimer.trans shiftTimer, (tryHead_trimIndex e).trans trimIndex,
        sameOuts.trans pulses⟩)
    ⟨abortShift_idle s, rfl, by simp, rfl⟩
  obtain ⟨ctl, -, -, pins, -⟩ := shiftLost_frame s
  exact headGone_dropHead shift (shiftTimer.trans timer) trimIndex (pulses.trans outs) ctl pins

/-- A fault of the counting job changes none of it. -/
theorem headGone_faultCounting {s t : State} (h : s.HeadGone t) (code : FaultCode) :
    s.HeadGone (t.faultCounting code) := by
  have firing := faultCounting_firing (s := t) code h.print h.divider
  obtain ⟨ctl, -, -, -, head, pins, outs, -⟩ := faultCounting_frame t code
  constructor <;> simp only [firing, head, outs, ctl, pins, h.state, h.shift, h.shiftTimer, h.warmupTimer, h.idleTimer,
    h.periodTimer, h.tickle, h.periodCount, h.print, h.divider, h.trimIndex, h.outs, h.ctl, h.pins]

/-! ### The command (R109, R110) -/

/-- The loss of the head, with the counting job's fault as R110 judges it. -/
def State.lossJudged (s : State) : State :=
  if s.lossFaults then s.loseHead.faultCounting .headLost else s.loseHead

theorem attached_iff (h : HeadState) : h.attached = true ↔ h = .warming ∨ h = .ready := by
  cases h <;> simp [HeadState.attached]

section
variable {s : State}

theorem headLoss_attached (on : s.head.state = .warming ∨ s.head.state = .ready) :
    s.headLoss = (s.lossJudged.raise .head).rest := if_pos ((attached_iff _).mpr on)

theorem headLoss_detached (off : s.head.state = .off ∨ s.head.state = .lost) : s.headLoss = s := by
  rcases off with off | lost
  · simp [State.headLoss, off, HeadState.attached]
  · simp [State.headLoss, lost, HeadState.attached]

theorem lossFaults_iff : s.lossFaults = true ↔
    s.head.state = .ready ∧ (s.firing.print = .into ∨ s.rowShifting = true) := by simp [State.lossFaults]

theorem headGone_lossJudged (s : State) : s.HeadGone s.lossJudged := by
  unfold State.lossJudged
  split
  · exact headGone_faultCounting (headGone_loseHead s) _
  · exact headGone_loseHead s

/-! ### With no item taken at the abort -/

section
variable (noItem : s.rowShifting = false ∨ staysAtHead s.queue)
include noItem

theorem lossJudged_noItem : s.lossJudged.head.settings = s.head.settings ∧ s.lossJudged.tracker = s.tracker ∧
    s.lossJudged.mapper = s.mapper := by
  obtain ⟨-, settings, -⟩ := abortShift_link s
  unfold State.lossJudged
  rw [loseHead_noItem noItem]
  split <;> simp [settings]

theorem lossJudged_unfaulted (noFault : ¬s.lossFaults = true) :
    s.lossJudged.queue = s.queue ∧ s.lossJudged.builder = s.builder ∧ s.lossJudged.writer = s.writer ∧
      (s.rowShifting = false → s.lossJudged.slots = s.slots) := by
  rw [State.lossJudged, if_neg noFault, loseHead_noItem noItem]
  exact ⟨by simp, by simp, by simp, fun noShift => by simp [abortShift_slots s noShift]⟩

theorem lossJudged_noJob (faults : s.lossFaults = true) (noJob : s.countingJob = none) :
    s.lossJudged.queue = s.queue ∧ s.lossJudged.builder = s.builder := by
  have noJobNow : s.abortShift.dropHead.countingJob = none :=
    (dropHead_countingJob _).trans ((countingJob_abortShift s).trans noJob)
  rw [State.lossJudged, if_pos faults, loseHead_noItem noItem, faultCounting_none _ noJobNow]
  simp

/-- The counting job takes HEAD_LOST, its row in flight and its ROWs in the queue discarded. -/
theorem lossJudged_job (faults : s.lossFaults = true) {x : SlotId} {j : Job} (counting : s.countingJob = some x)
    (held : s.job x = some j) : ∃ j', s.lossJudged.job x = some j' ∧
      j'.fault = (if j.fault = none then some (.headLost, 0) else j.fault) ∧
      j'.account.discarded = j.account.discarded + s.rowsShifting x +
        (if j.fault = none then s.rowsQueued x else 0) ∧
      (j.fault = none → ∀ item ∈ s.lossJudged.queue, item.slot ≠ x) := by
  have countingNow : s.abortShift.dropHead.countingJob = some x :=
    (dropHead_countingJob _).trans ((countingJob_abortShift s).trans counting)
  have heldNow := (dropHead_job s.abortShift x).trans ((abortShift_job s x).trans (congrArg _ held))
  have rows : s.abortShift.dropHead.rowsQueued x = s.rowsQueued x := by simp [State.rowsQueued]
  obtain ⟨j', after, fault, discarded, queue⟩ := faultCounting_job .headLost countingNow heldNow
  rw [State.lossJudged, if_pos faults, loseHead_noItem noItem]
  refine ⟨j', after, fault, discarded.trans (by rw [rows]), fun unfaulted item mem => ?_⟩
  rw [queue unfaulted, List.mem_filter] at mem
  simpa using mem.2

end

/-! ### With an END that waits for the aborted row (log 21) -/

theorem takeEnd_job (s : State) (x y : SlotId) : (s.takeEnd x).job y =
    if y = x then (s.job x).map fun j => { j with phase := .completing } else s.job y :=
  job_mapJob { s with queue := s.queue.tail } x y _

section
variable {x : SlotId} {items : List Item} (queue : s.queue = .finish x :: items) (shifting : s.shifting x = true)
include queue

/-- The END taken leaves its job's completion with the record writer. -/
theorem endTaken_frame : (s.abortShift.takeEnd x).dropHead.queue = items ∧
    (s.abortShift.takeEnd x).dropHead.builder = s.builder ∧
    (s.abortShift.takeEnd x).dropHead.writer.list = s.writer.list ++ [.completion x s.tracker.epos] := by
  have queueNow : s.abortShift.queue = .finish x :: items := by simpa using queue
  rw [takeEnd_eq queueNow]
  simp

omit queue
include shifting

theorem shifting_other : s.rowsShifting x = 1 ∧ s.rowsShifting (otherSlot x) = 0 := by
  have other : s.shifting (otherSlot x) = false := by
    unfold State.shifting at shifting ⊢
    split at shifting
    · have own := eq_of_beq shifting
      simpa [own] using (otherSlot_ne x).symm
    all_goals cases shifting
  exact ⟨by simp [State.rowsShifting, shifting], by simp [State.rowsShifting, other]⟩

theorem endTaken_job {j : Job} (held : s.job x = some j) : (s.abortShift.takeEnd x).dropHead.job x =
    some { j with
      phase := .completing
      account := { j.account with discarded := j.account.discarded + 1 } } := by
  rw [dropHead_job, takeEnd_job, if_pos rfl, abortShift_job, held, (shifting_other shifting).1]
  rfl

theorem endTaken_job_other : (s.abortShift.takeEnd x).dropHead.job (otherSlot x) = s.job (otherSlot x) := by
  rw [dropHead_job, takeEnd_job, if_neg (otherSlot_ne x), abortShift_job, (shifting_other shifting).2]
  exact congrFun Option.map_id _

omit shifting

/-- The loss of the head takes the END before it judges the fault (log 21). -/
theorem lossJudged_end {items : List Item} (ready : s.head.state = .ready) (queue : s.queue = .finish x :: items)
    (shifting : s.shifting x = true) (stays : staysAtHead items) :
    s.lossJudged = (s.abortShift.takeEnd x).dropHead.faultCounting .headLost := by
  have faults : s.lossFaults = true :=
    lossFaults_iff.mpr ⟨ready, .inr ((rowShifting_iff s).mpr ⟨x, shifting⟩)⟩
  rw [State.lossJudged, if_pos faults, loseHead_end queue shifting stays]

end

/-! ### The other job, once a job is COMPLETING -/

section
variable {x : SlotId} {j : Job} (held : s.job x = some j) (completing : j.phase = .completing)
include held completing

theorem countingJob_alone (alone : s.job (otherSlot x) = none) : s.countingJob = none := by
  refine countingJob_eq_none fun y counts => ?_
  by_cases own : y = x
  · exact not_counts_of_completing held completing (own ▸ counts)
  · obtain ⟨k, other, -⟩ := counts_iff.mp (eq_otherSlot own ▸ counts)
    cases other.symm.trans alone

theorem countingJob_other {k : Job} (other : s.job (otherSlot x) = some k) (working : k.phase ≠ .completing) :
    s.countingJob = some (otherSlot x) := by
  refine countingJob_eq_only (counts_iff.mpr ⟨k, other, working⟩) ?_
  rw [← eq_otherSlot (otherSlot_ne x).symm]
  exact not_counts_of_completing held completing

end

end

/-- Settles O27: what every loss gives, then the jobs and the queue with no item taken at the abort and with an END. -/
theorem headLoss : Obligations.HeadLoss := by
  intro s live
  let gone : State := { s with pins := s.pins.withHead false, outs := Outputs.none }
  have event (present : s.pins.headPresent = true) : exec .headPresentInactive s = .next gone.headLoss :=
    (if_pos present).trans (pinEvent_live (p := s.pins.withHead false) live State.headLoss)
  refine ⟨fun absent => ?_, fun present off => ?_, fun present on => ?_⟩
  · exact (if_neg (by simp [absent])).trans (event_live live id)
  · exact (event present).trans (congrArg _ (headLoss_detached (s := gone) off))
  · have after := headGone_lossJudged gone
    refine ⟨gone.lossJudged.raise .head, (event present).trans (congrArg _ (headLoss_attached (s := gone) on)),
      after.pins, after.state, after.shift, after.shiftTimer, after.warmupTimer, after.idleTimer, after.periodTimer,
      after.tickle, after.periodCount, after.print, after.divider, after.trimIndex, ?ctl, ?outs, fun noItem => ?noItem,
      fun x j items ready queue shifting held stays => ?ended⟩
    case ctl =>
      rw [State.raise, after.ctl]
      rfl
    case outs =>
      refine after.outs.trans ?_
      simp only [gone, Outputs.none, Nat.zero_add]
    case noItem =>
      obtain ⟨settings, tracker, mapper⟩ := lossJudged_noItem (s := gone) noItem
      refine ⟨settings, tracker, mapper, fun noFault => ?_, fun faults => ?_⟩
      · exact lossJudged_unfaulted (s := gone) noItem fun faults => noFault (lossFaults_iff.mp faults)
      · have faults : gone.lossFaults = true := lossFaults_iff.mpr faults
        exact ⟨lossJudged_noJob (s := gone) noItem faults, fun x j => lossJudged_job (s := gone) noItem faults⟩
    case ended =>
      let ended := (gone.abortShift.takeEnd x).dropHead
      have judged : gone.lossJudged = ended.faultCounting .headLost :=
        lossJudged_end (s := gone) ready queue shifting stays
      obtain ⟨endedQueue, endedBuilder, endedList⟩ := endTaken_frame (s := gone) queue
      have completing := endTaken_job (s := gone) shifting held
      have other := endTaken_job_other (s := gone) shifting
      have keptJob := faultCounting_completing (s := ended) .headLost completing rfl
      have keptWriter : (ended.faultCounting .headLost).writer = ended.writer := by simp
      simp only [judged]
      refine ⟨keptJob, (congrArg Writer.list keptWriter).trans endedList, fun alone => ?_,
        fun k newer working unfaulted => ?_⟩
      · have noJob := countingJob_alone completing rfl (other.trans alone)
        rw [faultCounting_none (s := ended) .headLost noJob]
        exact ⟨endedQueue, endedBuilder⟩
      · have newerNow := other.trans newer
        have counting := countingJob_other completing rfl newerNow working
        obtain ⟨k', heldAfter, fault, -, purged⟩ := faultCounting_job (s := ended) .headLost counting newerNow
        refine ⟨⟨k', heldAfter, fault.trans (if_pos unfaulted)⟩, fun item mem => ?_⟩
        have inQueue : item ∈ ended.queue.filter fun it => it.slot != otherSlot x := purged unfaulted ▸ mem
        rw [endedQueue, List.mem_filter] at inQueue
        simpa using inQueue

end Sys2Proof.Machine

/-! ## The drop mapper (chapter 5) -/

namespace Sys2Proof.Machine

/-! ### The active bank and its entries (R91, R97) -/

section
variable {m : Mapper}

theorem activeBank_a (active : m.active = .a) : m.activeBank = m.bankA := by
  rw [Mapper.activeBank, active]

theorem activeBank_b (active : m.active = .b) : m.activeBank = m.bankB := by
  rw [Mapper.activeBank, active]

theorem tableEntry_of_getElem? {bank : List DropEntry} {k : Nat} {e : DropEntry} (entry : bank[k]? = some e) :
    tableEntry bank k = e := by
  rw [tableEntry, List.getD_eq_getElem?_getD, entry, Option.getD_some]

variable {d : Dot}

theorem entryFor_overlay (overlay : d.overlay ≠ 0#2) :
    m.entryFor d = tableEntry m.activeBank (16 + d.overlay.toNat) :=
  if_pos (bne_iff_ne.mpr overlay)

theorem entryFor_noOverlay (noOverlay : d.overlay = 0#2) :
    m.entryFor d = if d.covered then tableEntry m.activeBank 16
      else tableEntry m.activeBank (d.level &&& m.levelMask).toNat :=
  if_neg (by simp [noOverlay])

theorem entryFor_covered (noOverlay : d.overlay = 0#2) (covered : d.covered = true) :
    m.entryFor d = tableEntry m.activeBank 16 :=
  (entryFor_noOverlay noOverlay).trans (if_pos covered)

theorem entryFor_level (noOverlay : d.overlay = 0#2) (bare : d.covered = false) :
    m.entryFor d = tableEntry m.activeBank (d.level &&& m.levelMask).toNat :=
  (entryFor_noOverlay noOverlay).trans (if_neg (by simp [bare]))

end

/-! ### The codes a nozzle has and wants (R99) -/

section
variable {m : Mapper} {dots : List Dot} {n : Nat}

theorem primaryCodes_getElem? {state : NozzleState} {d : Dot} (nozzle : m.map[n]? = some state)
    (dot : dots[n]? = some d) : (m.primaryCodes dots)[n]? = some (primaryCode state (m.entryFor d)) :=
  List.getElem?_zipWith_eq_some.mpr ⟨state, d, nozzle, dot, rfl⟩

theorem length_primaryCodes : (m.primaryCodes dots).length = min m.map.length dots.length :=
  List.length_zipWith

/-- What one nozzle, given with its dot and its place, wants of its neighbours. -/
def Mapper.wanted (m : Mapper) (nozzle : (NozzleState × Dot) × Nat) : Option (Nat × BitVec 2) :=
  if nozzle.1.1 = .out ∧ (m.entryFor nozzle.1.2).good ≠ 0#2 then some (nozzle.2, (m.entryFor nozzle.1.2).good)
  else none

theorem wantedDots_eq : m.wantedDots dots = (m.map.zip dots).zipIdx.filterMap m.wanted := rfl

theorem wanted_eq_some {nozzle : (NozzleState × Dot) × Nat} {code : BitVec 2} :
    m.wanted nozzle = some (n, code) ↔
      nozzle.1.1 = .out ∧ nozzle.2 = n ∧ code = (m.entryFor nozzle.1.2).good ∧ code ≠ 0#2 := by
  rw [Mapper.wanted, Option.ite_none_right_eq_some, Option.some_inj, Prod.mk.injEq]
  constructor
  · rintro ⟨⟨out, wanted⟩, place, rfl⟩
    exact ⟨out, place, rfl, wanted⟩
  · rintro ⟨out, place, rfl, wanted⟩
    exact ⟨⟨out, wanted⟩, place, rfl⟩

theorem mem_wantedDots {code : BitVec 2} : (n, code) ∈ m.wantedDots dots ↔
    ∃ d, m.map[n]? = some .out ∧ dots[n]? = some d ∧ code = (m.entryFor d).good ∧ code ≠ 0#2 := by
  simp only [wantedDots_eq, List.mem_filterMap, wanted_eq_some, List.mem_zipIdx_iff_getElem?,
    List.getElem?_zip_eq_some]
  constructor
  · rintro ⟨⟨⟨_, d⟩, _⟩, ⟨nozzle, dot⟩, rfl, rfl, wants⟩
    exact ⟨d, nozzle, dot, wants⟩
  · rintro ⟨d, nozzle, dot, wants⟩
    exact ⟨((.out, d), n), ⟨nozzle, dot⟩, rfl, rfl, wants⟩

/-- The OUT nozzles are taken in the order of their places. -/
theorem wantedDots_ascending (m : Mapper) (dots : List Dot) :
    (m.wantedDots dots).Pairwise fun a b => a.1 < b.1 := by
  have places : (m.map.zip dots).zipIdx.Pairwise fun a b => a.2 < b.2 := by
    rw [← List.pairwise_map (f := Prod.snd), List.zipIdx_map_snd]
    exact List.pairwise_lt_range'
  rw [wantedDots_eq, List.pairwise_filterMap]
  refine places.imp fun {a b} before want wants want' wants' => ?_
  obtain ⟨-, place, -⟩ := wanted_eq_some.mp wants
  obtain ⟨-, place', -⟩ := wanted_eq_some.mp wants'
  rwa [← place, ← place']

end

/-! ### One OUT nozzle of the substitution pass (R99, R100) -/

section
variable {map : List NozzleState}

theorem canReceive_iff {codes : List (BitVec 2)} {n : Nat} :
    canReceive map codes n = true ↔ map[n]? = some .good ∧ codes[n]? = some 0#2 := by
  simp [canReceive]

variable {r : RowCodes} {n : Nat} {code : BitVec 2}

theorem placeDot_left (left : 0 < n ∧ canReceive map r.codes (n - 1) = true) :
    placeDot map r (n, code) = ⟨r.codes.set (n - 1) code, r.substitutions + 1, r.lostDots⟩ :=
  if_pos left

theorem placeDot_right (noLeft : ¬(0 < n ∧ canReceive map r.codes (n - 1) = true))
    (right : canReceive map r.codes (n + 1) = true) :
    placeDot map r (n, code) = ⟨r.codes.set (n + 1) code, r.substitutions + 1, r.lostDots⟩ :=
  (if_neg noLeft).trans (if_pos right)

theorem placeDot_lost (noLeft : ¬(0 < n ∧ canReceive map r.codes (n - 1) = true))
    (noRight : ¬canReceive map r.codes (n + 1) = true) :
    placeDot map r (n, code) = ⟨r.codes, r.substitutions, r.lostDots + 1⟩ :=
  (if_neg noLeft).trans (if_neg noRight)

/-- What the pass keeps from one point to a later one, `wants` OUT nozzles on: a code is written only at a nozzle that
can receive one, and each wanted dot is counted once. -/
structure RowCodes.Passes (map : List NozzleState) (wants : Nat) (r later : RowCodes) : Prop where
  length : later.codes.length = r.codes.length
  counted : later.substitutions + later.lostDots = r.substitutions + r.lostDots + wants
  kept : ∀ n, ¬canReceive map r.codes n = true → later.codes[n]? = r.codes[n]?

theorem RowCodes.Passes.refl (r : RowCodes) : r.Passes map 0 r := ⟨rfl, rfl, fun _ _ => rfl⟩

theorem RowCodes.Passes.trans {a b : Nat} {r later last : RowCodes} (first : r.Passes map a later)
    (second : later.Passes map b last) : r.Passes map (b + a) last where
  length := second.length.trans first.length
  counted := by rw [second.counted, first.counted, Nat.add_assoc, Nat.add_comm a b]
  kept n closed := by
    have same := first.kept n closed
    have closedStill : ¬canReceive map later.codes n = true := by rwa [canReceive, same]
    exact (second.kept n closedStill).trans same

/-- A dot given to a nozzle that can receive it. -/
theorem passes_give {k : Nat} (receives : canReceive map r.codes k = true) (code : BitVec 2) :
    r.Passes map 1 ⟨r.codes.set k code, r.substitutions + 1, r.lostDots⟩ where
  length := List.length_set
  counted := Nat.add_right_comm ..
  kept _ closed := List.getElem?_set_ne fun same => closed (by rwa [← same])

theorem passes_placeDot (want : Nat × BitVec 2) : r.Passes map 1 (placeDot map r want) := by
  obtain ⟨n, code⟩ := want
  by_cases left : 0 < n ∧ canReceive map r.codes (n - 1) = true
  · rw [placeDot_left left]
    exact passes_give left.2 code
  · by_cases right : canReceive map r.codes (n + 1) = true
    · rw [placeDot_right left right]
      exact passes_give right code
    · rw [placeDot_lost left right]
      exact ⟨rfl, rfl, fun _ _ => rfl⟩

theorem passes_foldl (wants : List (Nat × BitVec 2)) (r : RowCodes) :
    r.Passes map wants.length (wants.foldl (placeDot map) r) := by
  induction wants generalizing r with
  | nil => exact .refl r
  | cons want wants ih => exact (passes_placeDot want).trans (ih _)

end

/-! ### The codes of a row (R95, R96) -/

section
variable {m : Mapper} {row : Row}

theorem mapRow_blank (blank : row.blank = true) : m.mapRow row = ⟨List.replicate Config.nozzles 0#2, 0, 0⟩ :=
  if_pos blank

theorem mapRow_image (image : row.blank = false) :
    m.mapRow row = (m.wantedDots row.dots).foldl (placeDot m.map) ⟨m.primaryCodes row.dots, 0, 0⟩ :=
  if_neg (by simp [image])

variable (image : row.blank = false)
include image

theorem mapRow_passes :
    RowCodes.Passes m.map (m.wantedDots row.dots).length ⟨m.primaryCodes row.dots, 0, 0⟩ (m.mapRow row) :=
  mapRow_image image ▸ passes_foldl ..

/-- A nozzle that is not GOOD, or that has a dot of its own, fires its primary code. -/
theorem mapRow_primary {n : Nat} {state : NozzleState} {d : Dot} (nozzle : m.map[n]? = some state)
    (dot : row.dots[n]? = some d) (closed : state ≠ .good ∨ primaryCode state (m.entryFor d) ≠ 0#2) :
    (m.mapRow row).codes[n]? = some (primaryCode state (m.entryFor d)) := by
  have primary := primaryCodes_getElem? nozzle dot
  refine ((mapRow_passes image).kept n fun receives => ?_).trans primary
  obtain ⟨good, zero⟩ := canReceive_iff.mp receives
  rcases closed with notGood | fires
  · exact notGood (Option.some_inj.mp (nozzle.symm.trans good))
  · exact fires (Option.some_inj.mp (primary.symm.trans zero))

end

/-- Settles O32: a blank row is mapped before anything the mapper holds is looked at. -/
theorem blankRowFiresNothing : Obligations.BlankRowFiresNothing :=
  fun _ _ blank => mapRow_blank blank

/-- Settles O33: the bank and its entries, the entry by overlay and cover, and the code by the state of the nozzle. -/
theorem primaryCodes : Obligations.PrimaryCodes := by
  refine ⟨fun m => ⟨activeBank_a, activeBank_b⟩, fun bank k e => tableEntry_of_getElem?,
    fun m d => ⟨entryFor_overlay, entryFor_covered, entryFor_level⟩, fun m dots n state d nozzle dot => ?_⟩
  rw [primaryCodes_getElem? nozzle dot]
  cases state <;> rfl

/-- Settles O34: one OUT nozzle by what its neighbours can receive, then the row by what the whole pass keeps. -/
theorem substitutionPass : Obligations.SubstitutionPass := by
  refine ⟨fun m row => mapRow_image, fun map r n code => ?step, fun m row image => ?row,
    fun m dots => ⟨wantedDots_ascending m dots, fun n code => mem_wantedDots⟩⟩
  case step =>
    simp only [← canReceive_iff, ← Nat.pos_iff_ne_zero]
    exact ⟨placeDot_left, placeDot_right, placeDot_lost⟩
  case row =>
    have passes := mapRow_passes (m := m) image
    refine ⟨passes.length.trans length_primaryCodes, passes.counted.trans (Nat.zero_add _),
      fun n state d nozzle dot => ⟨?_, ?_, ?_⟩⟩
    · rintro rfl
      exact mapRow_primary image nozzle dot (.inl (by decide))
    · rintro rfl
      exact mapRow_primary image nozzle dot (.inl (by decide))
    · rintro rfl fires
      exact mapRow_primary image nozzle dot (.inr fires)

end Sys2Proof.Machine

/-! ## O29: the fire pulse -/

namespace Sys2Proof.Machine

/-- The end of a row shift, over the state in which its row was shifted. -/
theorem fired_eq (s : State) (x : SlotId) (substitutions lostDots : Nat) :
    s.fired x substitutions lostDots = { s.mapJob x (fun j => j.fired substitutions lostDots) with
      head := { s.head with
        shift := .idle
        shiftTimer := .stopped
        dat := s.head.shift.lineData.getLastD s.head.dat
        tickleActive := false
        periodTimer := .stopped
        periodCount := 0
        idleTimer := timerOf s.head.settings.tickleIdle }
      outs := { s.outs with fire := some .fire } } := by
  rw [State.fired, mapJob_eq]
  rfl

section
variable {s : State}

theorem effect_firePulse_row (before : State) {codes : List (BitVec 2)} {x : SlotId} {substitutions lostDots : Nat}
    (shift : s.head.shift = .row codes x substitutions lostDots) :
    State.effect before .firePulse s = (s.fired x substitutions lostDots).rest := by
  simp only [State.effect, shift]

theorem effect_firePulse_noRow (before : State) (noRow : s.rowShifting = false) :
    State.effect before .firePulse s = s := by
  cases shift : s.head.shift with
  | idle | tickle => simp only [State.effect, shift]
  | row => simp [State.rowShifting, shift] at noRow

theorem exec_firePulse (live : s.pins.resetActive = false) :
    exec .firePulse s = .next (s.effect .firePulse s.quiet) :=
  event_live live (s.effect .firePulse)

end

/-- Settles O29: the counters' sums, the pulse of a row shift, and none without one. -/
theorem firePulse : Obligations.FirePulse := by
  refine ⟨toNat_satAdd, fun s live => ⟨fun codes x substitutions lostDots shift => ?row, fun noRow => ?noRow⟩⟩
  case row =>
    rw [exec_firePulse live, effect_firePulse_row (s := s.quiet) s shift, fired_eq, mapJob_quiet]
    rfl
  case noRow =>
    rw [exec_firePulse live, effect_firePulse_noRow (s := s.quiet) s noRow]
    rfl

end Sys2Proof.Machine

/-! ## O28: the head's return and its warm-up -/

namespace Sys2Proof.Machine

@[simp] theorem timer_runs_iff {timer : Timer} : timer.runs = true ↔ timer ≠ .stopped := by
  cases timer <;> simp [Timer.runs]

theorem hpwr_iff {s : State} : s.hpwr = true ↔ s.head.state ≠ .off := bne_iff_ne

theorem hpwr_off {s : State} (off : s.head.state = .off) : s.hpwr = false :=
  Bool.eq_false_iff.mpr fun high => hpwr_iff.mp high off

section
variable {s : State}

/-- The entry to READY, over the state in which the head was away or warming (R108, R117). -/
theorem enterReady_eq (s : State) : s.enterReady = { s with
    head := { s.head with
      state := .ready
      warmupTimer := .stopped
      idleTimer :=
        if s.ctl.engine = .abandoning then s.head.idleTimer else timerOf s.head.settings.tickleIdle }
    ctl := { s.ctl with attn := s.ctl.attn ||| 0x08#8 } } := by
  by_cases abandoning : s.ctl.engine = .abandoning
  · rw [State.enterReady, if_pos abandoning, if_pos abandoning]
    rfl
  · rw [State.enterReady, if_neg abandoning, if_neg abandoning]
    rfl

theorem beginWarmup_timed (timed : s.head.settings.warmupTime ≠ 0) : s.beginWarmup = { s with
    head := { s.head with state := .warming, warmupTimer := .running s.head.settings.warmupTime } } := if_neg timed

theorem beginWarmup_atOnce (noTime : s.head.settings.warmupTime = 0) : s.beginWarmup = s.enterReady := if_pos noTime

/-- The state with the line active and its change yet to be taken. -/
def State.headSeen (s : State) : State := { s with pins := s.pins.withHead true, outs := Outputs.none }

theorem exec_headPresentActive (live : s.pins.resetActive = false) (absent : s.pins.headPresent = false) :
    exec .headPresentActive s =
      .next (if s.head.state = .lost then s.headSeen.beginWarmup.rest else s.headSeen) :=
  (if_neg (by simp [absent])).trans (pinEvent_live (p := s.pins.withHead true) live _)

theorem exec_headPresentActive_lost (live : s.pins.resetActive = false) (absent : s.pins.headPresent = false)
    (lost : s.head.state = .lost) : exec .headPresentActive s = .next s.headSeen.beginWarmup.rest := by
  rw [exec_headPresentActive live absent, if_pos lost]

theorem exec_warmupExpiry (live : s.pins.resetActive = false) :
    exec .warmupExpiry s =
      .next (if s.head.state = .warming ∧ s.head.warmupTimer.runs = true then s.quiet.enterReady.rest else s.quiet) :=
  event_live live _

end

/-- Settles O28: HPWR by the head state, the return of the head by WARMUP_TIME, and the warm-up's expiry. -/
theorem headReturnsAndWarms : Obligations.HeadReturnsAndWarms := by
  refine ⟨fun s => ⟨fun powered => ?powered, hpwr_off⟩, fun s live => ⟨fun absent lost => ⟨fun timed => ?timed,
    fun noTime => ?atOnce⟩, fun absent notLost => ?notLost, fun present => ?present, fun warming runs => ?expires,
    fun idle => ?idle⟩⟩
  case powered =>
    rcases powered with state | state | state <;> simp [hpwr_iff, state]
  case timed =>
    rw [exec_headPresentActive_lost live absent lost, beginWarmup_timed (s := s.headSeen) timed]
    rfl
  case atOnce =>
    rw [exec_headPresentActive_lost live absent lost, beginWarmup_atOnce (s := s.headSeen) noTime, enterReady_eq]
    rfl
  case notLost =>
    rw [exec_headPresentActive live absent, if_neg notLost]
    rfl
  case present => exact (if_pos present).trans (event_live live id)
  case expires =>
    rw [exec_warmupExpiry live, if_pos ⟨warming, timer_runs_iff.mpr runs⟩, enterReady_eq]
    rfl
  case idle =>
    have stays : ¬(s.head.state = .warming ∧ s.head.warmupTimer.runs = true) := by
      rintro ⟨warming, runs⟩
      exact idle.elim (absurd warming) (timer_runs_iff.mp runs)
    rw [exec_warmupExpiry live, if_neg stays]
    rfl

end Sys2Proof.Machine

/-! ## O30: tickle -/

namespace Sys2Proof.Machine

section
variable {s : State}

/-- A tickle shift begins when the pattern names a nozzle (R119). -/
theorem startTickleShift_eq (s : State) : s.startTickleShift =
    if true ∈ s.mapper.ticklePattern s.head.settings.tickleGroups then
      s.beginShift (.tickle (s.mapper.ticklePattern s.head.settings.tickleGroups))
    else s := by
  simp [State.startTickleShift]

/-- What the beginning of a period does to the head link, and to nothing else (R118, R119). -/
theorem beginPeriod_eq (s : State) : s.beginPeriod = { s with
    head :=
      if s.head.periodCount % s.head.settings.tickleCadence = 0 ∧ s.head.shift = .idle ∧
          true ∈ s.mapper.ticklePattern s.head.settings.tickleGroups then
        { s.head with
          shift := .tickle (s.mapper.ticklePattern s.head.settings.tickleGroups)
          shiftTimer := .running (10 * 2 ^ s.head.settings.linkRate) }
      else s.head } := by
  rw [State.beginPeriod, startTickleShift_eq, ← ite_and]
  simp only [and_assoc]
  split
  · rfl
  · rfl

theorem exec_tickleIdleExpiry (live : s.pins.resetActive = false) :
    exec .tickleIdleExpiry s = .next (if s.head.idleTimer.runs = true ∧ s.head.state = .ready then
      State.tickleOn { s.quiet with head := { s.head with idleTimer := .stopped } } else s.quiet) :=
  event_live live _

theorem exec_periodTimerExpiry (live : s.pins.resetActive = false) :
    exec .periodTimerExpiry s =
      .next (if s.head.periodTimer.runs = true ∧ s.head.tickleActive = true then s.quiet.nextPeriod else s.quiet) :=
  event_live live _

theorem exec_ticklePulse (live : s.pins.resetActive = false) :
    exec .ticklePulse s = .next (s.effect .ticklePulse s.quiet) := event_live live (s.effect .ticklePulse)

theorem effect_ticklePulse_tickle (before : State) {pattern : List Bool} (shift : s.head.shift = .tickle pattern) :
    State.effect before .ticklePulse s = s.endShift .tickle := by
  simp only [State.effect, shift]

theorem effect_ticklePulse_noTickle (before : State) (noTickle : ∀ pattern, s.head.shift ≠ .tickle pattern) :
    State.effect before .ticklePulse s = s := by
  cases shift : s.head.shift with
  | idle | row => simp only [State.effect, shift]
  | tickle pattern => exact absurd shift (noTickle pattern)

end

/-- Each nozzle's place in the pattern: its group is enabled and it is not OUT (R119). -/
theorem getElem?_ticklePattern {m : Mapper} {n : Nat} {state : NozzleState} (groups : BitVec 16)
    (mapped : m.map[n]? = some state) :
    (m.ticklePattern groups)[n]? = some (groups.getLsbD (n / 40) && state != .out) := by
  simp [Mapper.ticklePattern, mapped, Config.groupSize]

/-- Settles O30: the two expiries begin a period, the pulse ends its shift, and the pattern follows groups and map. -/
theorem tickle : Obligations.Tickle := by
  refine fun s live => ⟨fun runs ready => ?begins, fun idle => ?idle, fun runs active => ?nextPeriod,
    fun inactive => ?inactive, fun pattern shift => ?pulse, fun noTickle => ?noTickle,
    fun n state => getElem?_ticklePattern _⟩
  case begins =>
    rw [exec_tickleIdleExpiry live, if_pos ⟨timer_runs_iff.mpr runs, ready⟩, State.tickleOn, beginPeriod_eq]
    rfl
  case idle =>
    have stays : ¬(s.head.idleTimer.runs = true ∧ s.head.state = .ready) := by
      rintro ⟨runs, ready⟩
      exact idle.elim (timer_runs_iff.mp runs) (absurd ready)
    rw [exec_tickleIdleExpiry live, if_neg stays]
    rfl
  case nextPeriod =>
    rw [exec_periodTimerExpiry live, if_pos ⟨timer_runs_iff.mpr runs, active⟩, State.nextPeriod, beginPeriod_eq]
    rfl
  case inactive =>
    have stays : ¬(s.head.periodTimer.runs = true ∧ s.head.tickleActive = true) := by
      rintro ⟨runs, active⟩
      exact inactive.elim (timer_runs_iff.mp runs) (by simp [active])
    rw [exec_periodTimerExpiry live, if_neg stays]
    rfl
  case pulse =>
    rw [exec_ticklePulse live, effect_ticklePulse_tickle (s := s.quiet) s shift]
    rfl
  case noTickle =>
    rw [exec_ticklePulse live, effect_ticklePulse_noTickle (s := s.quiet) s noTickle]
    rfl

end Sys2Proof.Machine

/-! ## O3: what the block's own steps leave alone -/

namespace Sys2Proof.Machine

/-- Settles O3: each own step keeps what `State.Kept` names, and with no drain about to end `State.Unstopped` too; so do
the steps to rest. -/
theorem ownStepsKeep : Obligations.OwnStepsKeep := ⟨kept_rest, fun _ => unstopped_rest⟩

end Sys2Proof.Machine

/-! ## O51: the fields of a state word -/

namespace Sys2Proof.Machine

/-! ### A field of a word, and a word with a field replaced (10.1, 10.2) -/

section
variable (w : Word)

theorem testBit_bits (lo len i : Nat) : (bits w lo len).testBit i = (decide (i < len) && w.getLsbD (lo + i)) := by
  rw [bits, BitVec.testBit_toNat, BitVec.getLsbD_extractLsb']

/-- Inside the field stand the bits of the number, outside it those of the word. -/
theorem getLsbD_withBits (lo len value : Nat) {i : Nat} (inWord : i < 32) : (withBits w lo len value).getLsbD i =
    if lo ≤ i ∧ i < lo + len then value.testBit (i - lo) else w.getLsbD i := by
  have offsetInWord : i - lo < 32 := by omega
  have mask : (BitVec.ofNat 32 (2 ^ len - 1)).getLsbD (i - lo) = decide (i - lo < len) := by
    simp only [BitVec.getLsbD_ofNat, Nat.testBit_two_pow_sub_one, offsetInWord, decide_true, Bool.true_and]
  have number : (BitVec.ofNat 32 (value % 2 ^ len)).getLsbD (i - lo) =
      (decide (i - lo < len) && value.testBit (i - lo)) := by
    simp only [BitVec.getLsbD_ofNat, Nat.testBit_mod_two_pow, offsetInWord, decide_true, Bool.true_and]
  simp only [withBits, BitVec.getLsbD_or, BitVec.getLsbD_and, BitVec.getLsbD_not, BitVec.getLsbD_shiftLeft, mask,
    number]
  by_cases below : i < lo
  · have outside : ¬(lo ≤ i ∧ i < lo + len) := by omega
    simp [below, outside, inWord]
  · by_cases inField : i - lo < len
    · have inside : lo ≤ i ∧ i < lo + len := by omega
      simp [below, inField, inside, inWord]
    · have outside : ¬(lo ≤ i ∧ i < lo + len) := by omega
      simp [below, inField, outside, inWord]

/-- The field replaced holds the number. -/
theorem bits_withBits {lo len value : Nat} (inWord : lo + len ≤ 32) (small : value < 2 ^ len) :
    bits (withBits w lo len value) lo len = value := by
  refine Nat.eq_of_testBit_eq fun i => ?_
  rw [testBit_bits]
  by_cases inField : i < len
  · rw [getLsbD_withBits w lo len value (by omega), if_pos (by omega), Nat.add_sub_cancel_left]
    simp [inField]
  · have above : value < 2 ^ i := lt_of_lt_of_le small (Nat.pow_le_pow_right (by decide) (by omega))
    simp [inField, Nat.testBit_lt_two_pow above]

/-- A field that stands clear of the one replaced is kept. -/
theorem bits_withBits_apart {lo len lo' len' : Nat} (value : Nat) (inWord : lo' + len' ≤ 32)
    (apart : lo' + len' ≤ lo ∨ lo + len ≤ lo') : bits (withBits w lo len value) lo' len' = bits w lo' len' := by
  refine Nat.eq_of_testBit_eq fun i => ?_
  rw [testBit_bits, testBit_bits]
  by_cases inField : i < len'
  · rw [getLsbD_withBits w lo len value (by omega), if_neg (by omega)]
  · simp [inField]

/-! ### The words the engine writes (TABLE 10-1) -/

/-- The word of a completion: the fields STATE, FAULT and FAULT_ENTRY with what is given. -/
def completionWord (state fault entry : Nat) : Word := withBits (withBits (withBits w 0 3 state) 16 8 fault) 24 6 entry

theorem completedWord_done : completedWord w none = completionWord w 3 0 0 := rfl

theorem completedWord_faulted (code : FaultCode) (entry : Nat) :
    completedWord w (some (code, entry)) = completionWord w 4 code.code entry := rfl

theorem completionWord_fields {state fault entry : Nat} (stateFits : state < 8) (faultFits : fault < 256)
    (entryFits : entry < 64) :
    bits (completionWord w state fault entry) 0 3 = state ∧ bits (completionWord w state fault entry) 16 8 = fault ∧
      bits (completionWord w state fault entry) 24 6 = entry := by
  refine ⟨?_, ?_, ?_⟩
  · rw [completionWord, bits_withBits_apart _ _ (by decide) (by decide),
      bits_withBits_apart _ _ (by decide) (by decide), bits_withBits _ (by decide) stateFits]
  · rw [completionWord, bits_withBits_apart _ _ (by decide) (by decide), bits_withBits _ (by decide) faultFits]
  · rw [completionWord, bits_withBits _ (by decide) entryFits]

/-- Every other bit of the word is kept. -/
theorem getLsbD_completionWord (state fault entry : Nat) {i : Nat} (other : (3 ≤ i ∧ i < 16) ∨ 30 ≤ i)
    (inWord : i < 32) : (completionWord w state fault entry).getLsbD i = w.getLsbD i := by
  rw [completionWord, getLsbD_withBits _ _ _ _ inWord, if_neg (by omega), getLsbD_withBits _ _ _ _ inWord,
    if_neg (by omega), getLsbD_withBits _ _ _ _ inWord, if_neg (by omega)]

theorem getLsbD_completedWord (fault : Option (FaultCode × Nat)) {i : Nat} (other : (3 ≤ i ∧ i < 16) ∨ 30 ≤ i)
    (inWord : i < 32) : (completedWord w fault).getLsbD i = w.getLsbD i := by
  cases fault with
  | none => exact getLsbD_completionWord w 3 0 0 other inWord
  | some f => exact getLsbD_completionWord w 4 f.1.code f.2 other inWord

theorem getLsbD_takenWord {i : Nat} (other : 3 ≤ i) (inWord : i < 32) : (takenWord w).getLsbD i = w.getLsbD i := by
  rw [takenWord, getLsbD_withBits _ _ _ _ inWord, if_neg (by omega)]

theorem released_releasedWord : released (releasedWord w) = true := by
  rw [released, releasedWord, getLsbD_withBits _ _ _ _ (by decide)]
  rfl

theorem getLsbD_releasedWord {i : Nat} (other : i ≠ 3) (inWord : i < 32) :
    (releasedWord w).getLsbD i = w.getLsbD i := by
  rw [releasedWord, getLsbD_withBits _ _ _ _ inWord, if_neg (by omega)]

end

theorem faultCode_fits (code : FaultCode) : code.code < 256 := by cases code <;> decide

/-- STATE is the three bits at 0 (TABLES 10-1 and 10-9). -/
theorem recordState_eq (w : Word) : recordState w = match w.extractLsb' 0 3 with
    | 0#3 => some .empty
    | 1#3 => some .ready
    | 2#3 => some .taken
    | 3#3 => some .done
    | 4#3 => some .faulted
    | 5#3 => some .withdrawn
    | _ => none := by
  unfold recordState bits
  generalize w.extractLsb' 0 3 = state
  revert state
  decide

/-- Settles O51: the fields written by where each stands, the bits kept by standing in none of them. -/
theorem stateWordFields : Obligations.StateWordFields := by
  refine ⟨fun w => ⟨⟨bits_withBits w (by decide) (by decide), fun i => getLsbD_takenWord w⟩,
      ⟨released_releasedWord w, fun i => getLsbD_releasedWord w⟩,
      completionWord_fields w (by decide) (by decide) (by decide),
      fun code entry small => completionWord_fields w (by decide) (faultCode_fits code) small,
      fun fault i => getLsbD_completedWord w fault⟩,
    fun w => ⟨rfl, recordState_eq w, rfl⟩, fun w lo len => rfl, ?codes⟩
  case codes => decide

end Sys2Proof.Machine

/-! ## O52: the memory port -/

namespace Sys2Proof.Machine

/-! ### The arbiter (R145) -/

section
variable {p : Port} {t : Transaction}

theorem granted_builder_waited (builder : p.builderReq = some t) (waited : p.builderWaited = true) :
    p.granted = some .builder := by simp [Port.granted, builder, waited]

/-- A request of the builder alone is granted, whether it waited or not. -/
theorem granted_builder_alone (builder : p.builderReq = some t) (noWriter : p.writerReq = none)
    (noWalker : p.walkerReq = none) : p.granted = some .builder := by simp [Port.granted, builder, noWriter, noWalker]

theorem granted_none (noBuilder : p.builderReq = none) (noWriter : p.writerReq = none) (noWalker : p.walkerReq = none) :
    p.granted = none := by simp [Port.granted, noBuilder, noWriter, noWalker]

section
variable (notDue : p.builderReq = none ∨ p.builderWaited = false)
include notDue

theorem not_builderDue : (p.builderReq.isSome && p.builderWaited) = false := by
  rcases notDue with noBuilder | notWaited
  · simp [noBuilder]
  · simp [notWaited]

theorem granted_writer (writer : p.writerReq = some t) : p.granted = some .writer := by
  simp [Port.granted, not_builderDue notDue, writer]

theorem granted_walker (walker : p.walkerReq = some t) (noWriter : p.writerReq = none) : p.granted = some .walker := by
  simp [Port.granted, not_builderDue notDue, walker, noWriter]

end

theorem grant_builder (builder : p.builderReq = some t) :
    p.grant .builder = { p with current := some t, builderReq := none, builderWaited := false } := by
  simp [Port.grant, Port.waiting, Port.setWaiting, builder]

theorem grant_writer (writer : p.writerReq = some t) :
    p.grant .writer = { p with current := some t, writerReq := none, builderWaited := p.builderReq.isSome } := by
  simp [Port.grant, Port.waiting, Port.setWaiting, writer]

theorem grant_walker (walker : p.walkerReq = some t) :
    p.grant .walker = { p with current := some t, walkerReq := none, builderWaited := p.builderReq.isSome } := by
  simp [Port.grant, Port.waiting, Port.setWaiting, walker]

end

/-! ### PORT_GRANT (R145, R166) -/

section
variable {s : State}

theorem tryGrant_busy {t : Transaction} (busy : s.port.current = some t) : s.tryGrant = none := by
  simp [State.tryGrant, busy]

theorem tryGrant_faulted (faulted : s.ctl.engine = .faulted) : s.tryGrant = none := by
  simp [State.tryGrant, faulted]

theorem tryGrant_noRequest (noRequest : s.port.granted = none) : s.tryGrant = none := by
  simp [State.tryGrant, noRequest]

theorem tryGrant_grants {r : Requester} (free : s.port.current = none) (notFaulted : s.ctl.engine ≠ .faulted)
    (granted : s.port.granted = some r) : s.tryGrant = some { s with port := s.port.grant r } := by
  simp [State.tryGrant, free, notFaulted, granted]

end

/-- Settles O52: nothing with the port busy, FAULTED or not asked for; else the request that the arbiter picks. -/
theorem portGranted : Obligations.PortGranted := by
  intro s live
  have stays : s.quiet.tryGrant = none → exec .portGrant s = .next { s with outs := Outputs.none } :=
    event_stays live (step := State.tryGrant)
  refine ⟨fun t busy => stays (tryGrant_busy (s := s.quiet) busy),
    fun noBuilder noWriter noWalker => stays (tryGrant_noRequest (s := s.quiet)
      (granted_none noBuilder noWriter noWalker)),
    fun faulted => stays (tryGrant_faulted (s := s.quiet) faulted), fun free notFaulted => ?grants⟩
  have grants {r : Requester} {p : Port} (granted : s.port.granted = some r) (port : s.port.grant r = p) :
      exec .portGrant s = .next (State.rest { s with port := p, outs := Outputs.none }) :=
    port ▸ event_makes live (step := State.tryGrant) (tryGrant_grants (s := s.quiet) free notFaulted granted)
  refine ⟨fun t builder due => grants ?_ (grant_builder builder),
    fun t writer notDue => grants (granted_writer notDue writer) (grant_writer writer),
    fun t walker noWriter notDue => grants (granted_walker notDue walker noWriter) (grant_walker walker)⟩
  rcases due with waited | ⟨noWriter, noWalker⟩
  · exact granted_builder_waited builder waited
  · exact granted_builder_alone builder noWriter noWalker

end Sys2Proof.Machine

/-! ## O46: how a look begins -/

namespace Sys2Proof.Machine

theorem freeSlot_isSome_iff {t : Slots} : t.freeSlot.isSome = true ↔ t.slot0 = none ∨ t.slot1 = none := by
  unfold Slots.freeSlot
  split <;> simp [*]

theorem releasing_iff {w : Writer} : w.releasing = true ↔ ∃ record, WriteTask.release record ∈ w.list := by
  rw [Writer.releasing, List.any_eq_true]
  constructor
  · rintro ⟨task, mem, isRelease⟩
    cases task with
    | completion => simp at isRelease
    | release record => exact ⟨record, mem⟩
  · rintro ⟨record, mem⟩
    exact ⟨_, mem, rfl⟩

section
variable {s : State}

/-- The six conditions of a chain look (R128). -/
theorem lookReady_iff : s.lookReady = true ↔ s.walker.lookOwed = true ∧ s.ctl.engine = .running ∧
    s.builder.state = .free ∧ (s.slots.slot0 = none ∨ s.slots.slot1 = none) ∧ s.walker.state ≠ .looking ∧
    ∀ record, WriteTask.release record ∉ s.writer.list := by
  rw [← freeSlot_isSome_iff, ← not_exists, ← releasing_iff]
  simp [State.lookReady, and_assoc]

theorem exec_pollTimerExpiry (live : s.pins.resetActive = false) :
    exec .pollTimerExpiry s =
      .next (if s.walker.pollTimer.runs = true then s.quiet.pollExpired.rest else s.quiet) := event_live live _

end

/-- Settles O46: the look is made under its six conditions, and without one of them it is not. -/
theorem looksBegin : Obligations.LooksBegin := by
  intro s live
  refine ⟨fun owed running free slot notLooking noRelease => ?begins, fun missing => ?stays, fun runs => ?expires,
    fun stopped => ?stopped⟩
  case begins =>
    have can : s.quiet.tryLook = some s.quiet.beginLook :=
      if_pos (lookReady_iff.mpr ⟨owed, running, free, slot, notLooking, noRelease⟩)
    exact event_makes live can
  case stays =>
    refine event_stays live (step := State.tryLook) (if_neg fun ready => ?_)
    obtain ⟨owed, running, free, slot, notLooking, noRelease⟩ := lookReady_iff.mp ready
    rcases missing with notOwed | notRunning | notFree | ⟨held0, held1⟩ | looking | ⟨record, release⟩
    · cases owed.symm.trans notOwed
    · exact notRunning running
    · exact notFree free
    · exact slot.elim held0 held1
    · exact notLooking looking
    · exact noRelease record release
  case expires =>
    rw [exec_pollTimerExpiry live, if_pos (timer_runs_iff.mpr runs)]
    rfl
  case stopped =>
    rw [exec_pollTimerExpiry live, if_neg (by simp [stopped])]
    rfl

end Sys2Proof.Machine

/-! ## O47: the reads of a look -/

namespace Sys2Proof.Machine

/-! ### A transaction that its requester wants ends (R144) -/

section
variable {s : State} {kind : TxKind}

theorem event_acts (live : s.pins.resetActive = false) {t : Transaction} (current : s.port.current = some t)
    (is : t.kind = kind) (wanted : t.wanted = true) (bus : Transaction → BusOut)
    (act : Transaction → State → State) :
    event s (fun u => u.endTransaction kind bus act) = .next (act t s.portFreed).rest := by
  rw [event_live live, endTransaction_wanted act current is wanted]

/-- Two spellings of the state in which the block's own steps begin. -/
theorem next_rest_congr {a : Answer} {t u : State} (answers : a = .next t.rest) (same : t = u) : a = .next u.rest :=
  same ▸ answers

/-- A read of the walker writes nothing, and what becomes of the look does not depend on where it read. -/
theorem event_lookReads (h : s.ends kind) (act : State → State) :
    event s (fun u => u.endTransaction kind (fun _ => .nothing) fun _ v => act v) = .next (act s.portFreed).rest := by
  obtain ⟨live, t, current, is, wanted⟩ := h
  exact event_acts live current is wanted _ _

theorem exec_linkReadDone (h : s.ends .linkRead) (result : WordResult) :
    exec (.linkReadDone result) s = .next (s.portFreed.linkRead result).rest := event_lookReads h _

theorem exec_stateReadDone (h : s.ends .stateRead) (result : WordResult) :
    exec (.stateReadDone result) s = .next (s.portFreed.stateRead result).rest := event_lookReads h _

theorem exec_headerReadDone (h : s.ends .headerRead) (result : ReadResult) :
    exec (.headerReadDone result) s = .next (s.portFreed.headerRead result).rest := event_lookReads h _

end

/-- RELEASED is set, or STATE is one that no record has that a look may take or pass (R131, R132). -/
def staleWord (word : Word) : Prop :=
  released word = true ∨ recordState word = some .taken ∨ recordState word = some .done ∨
    recordState word = some .faulted ∨ recordState word = none

/-! ### The LINK word (R130) -/

section
variable {s : State} (stage : s.walker.stage = .link)
include stage

theorem linkRead_busError : s.linkRead .busError = s.chainFault .readBus := by simp only [State.linkRead, stage]

theorem linkRead_last : s.linkRead (.data 0#32) = s.endLookWait := by simp only [State.linkRead, stage, if_pos]

variable {link : Word} (linked : link ≠ 0#32)
include linked

theorem linkRead_misaligned (misaligned : link.toNat % 32 ≠ 0) :
    s.linkRead (.data link) = s.chainFault .linkMisaligned := by
  simp [State.linkRead, stage, linked, aligned, misaligned]

theorem linkRead_record (isAligned : link.toNat % 32 = 0) :
    s.linkRead (.data link) = s.lookOn (.state link) .stateRead link 1 := by
  simp [State.linkRead, stage, linked, aligned, isAligned]

end

/-! ### The state word of the linked record (R131) -/

section
variable {s : State} {linked : Word} (stage : s.walker.stage = .state linked)
include stage

theorem stateRead_busError : s.stateRead .busError = s.chainFault .readBus := by simp only [State.stateRead, stage]

theorem stateRead_stale {word : Word} (stale : staleWord word) :
    s.stateRead (.data word) = s.chainFault .staleState := by
  rcases stale with isReleased | state | state | state | state
  · simp [State.stateRead, stage, isReleased]
  all_goals simp [State.stateRead, stage, state]

variable {word : Word} (unreleased : released word = false)
include unreleased

theorem stateRead_empty (empty : recordState word = some .empty) : s.stateRead (.data word) = s.endLookWait := by
  simp [State.stateRead, stage, unreleased, empty]

theorem stateRead_ready (ready : recordState word = some .ready) :
    s.stateRead (.data word) = s.lookOn (.header linked) .headerRead linked 12 := by
  simp [State.stateRead, stage, unreleased, ready]

theorem stateRead_withdrawn (withdrawn : recordState word = some .withdrawn) :
    s.stateRead (.data word) = s.skipRecord linked := by
  simp [State.stateRead, stage, unreleased, withdrawn]

end

/-- A skip: the record is the anchor, the one before it is released, and in RUNNING the look waits for that (R134,
R135). -/
theorem skipRecord_eq (s : State) (record : Word) : s.skipRecord record = { s with
    walker := { s.walker with
      state := if s.ctl.engine = .running then .looking else .idle
      stage := if s.ctl.engine = .running then .releaseWait else .none
      anchor := record }
    writer := { s.writer with list := s.writer.list ++ [.release s.walker.anchor] } } := by
  by_cases running : s.ctl.engine = .running
  · simp only [State.skipRecord, if_pos running]
    rfl
  · simp only [State.skipRecord, if_neg running]
    rfl

/-! ### The header (R132) -/

section
variable {s : State} {linked : Word} (stage : s.walker.stage = .header linked)
include stage

theorem headerRead_busError : s.headerRead .busError = s.chainFault .readBus := by simp only [State.headerRead, stage]

theorem headerRead_data (words : List Word) : s.headerRead (.data words) =
    s.lookOn (.exchange linked (Header.ofWord (wordAt words 0))) .takeExchange linked 1 := by
  simp only [State.headerRead, stage]

end

/-- Settles O47: each read by what it brings; the walker goes on from the state with the port free. -/
theorem lookReads : Obligations.LookReads := by
  intro s done waited asked
  refine ⟨fun h stage => ?link, fun linked h stage => ?state, fun linked h stage => ?header⟩
  case link =>
    replace stage : done.walker.stage = .link := stage
    have ended {result t} (read : done.linkRead result = t) : exec (.linkReadDone result) s = .next t.rest :=
      next_rest_congr (exec_linkReadDone h result) read
    exact ⟨ended (linkRead_busError stage), ended (linkRead_last stage), fun link isLink =>
      ⟨fun misaligned => ended (linkRead_misaligned stage isLink misaligned),
        fun isAligned => ended (linkRead_record stage isLink isAligned)⟩⟩
  case state =>
    replace stage : done.walker.stage = .state linked := stage
    have ended {result t} (read : done.stateRead result = t) : exec (.stateReadDone result) s = .next t.rest :=
      next_rest_congr (exec_stateReadDone h result) read
    refine ⟨ended (stateRead_busError stage), fun word => ⟨fun stale => ended (stateRead_stale stage stale),
      fun unreleased empty => ended (stateRead_empty stage unreleased empty),
      fun unreleased ready => ended (stateRead_ready stage unreleased ready),
      fun unreleased withdrawn running => ended ((stateRead_withdrawn stage unreleased withdrawn).trans ?_)⟩⟩
    have goesOn : done.ctl.engine = .running := running
    rw [skipRecord_eq, if_pos goesOn, if_pos goesOn]
    rfl
  case header =>
    replace stage : done.walker.stage = .header linked := stage
    have ended {result t} (read : done.headerRead result = t) : exec (.headerReadDone result) s = .next t.rest :=
      next_rest_congr (exec_headerReadDone h result) read
    exact ⟨ended (headerRead_busError stage), fun words => ended (headerRead_data stage words)⟩

end Sys2Proof.Machine

/-! ## O48: the exchange of a take -/

namespace Sys2Proof.Machine

theorem exec_takeExchangeDone {s : State} {linked : Word} (h : s.ends .takeExchange)
    (address : ∀ t, s.port.current = some t → t.address = linked) (result : WordResult) :
    exec (.takeExchangeDone result) s =
      .next ((s.portFreed.onBus (exchangeBus linked result)).exchangeDone result).rest := by
  obtain ⟨live, t, current, is, wanted⟩ := h
  exact address t current ▸ event_acts live current is wanted _ _

/-! ### What the exchange returns (R132, R134, R135) -/

section
variable {s : State} {linked : Word} {header : Header} (stage : s.walker.stage = .exchange linked header)
include stage

theorem exchangeDone_busError : s.exchangeDone .busError = s.chainFault .readBus := by
  simp only [State.exchangeDone, stage]

theorem exchangeDone_stale {word : Word} (stale : staleWord word) :
    s.exchangeDone (.data word) = s.chainFault .staleState := by
  rcases stale with isReleased | state | state | state | state
  · simp [State.exchangeDone, stage, isReleased]
  all_goals simp [State.exchangeDone, stage, state]

variable {word : Word} (unreleased : released word = false)
include unreleased

theorem exchangeDone_empty (empty : recordState word = some .empty) :
    s.exchangeDone (.data word) = s.endLookWait := by
  simp [State.exchangeDone, stage, unreleased, empty]

theorem exchangeDone_withdrawn (withdrawn : recordState word = some .withdrawn) :
    s.exchangeDone (.data word) = s.skipRecord linked := by
  simp [State.exchangeDone, stage, unreleased, withdrawn]

theorem exchangeDone_ready (ready : recordState word = some .ready) :
    s.exchangeDone (.data word) = s.take linked header := by
  simp [State.exchangeDone, stage, unreleased, ready]

end

theorem staleWord_leaves {word : Word} (stale : staleWord word) :
    released word = true ∨ recordState word ≠ some .ready := by
  rcases stale with isReleased | state | state | state | state
  · exact .inl isReleased
  all_goals exact .inr (by simp [state])

/-! ### The slots and the write list at a take (R133, R137, R141) -/

theorem freeSlot_lower {t : Slots} {x : SlotId} (slot : t.freeSlot = some x) : t.slot0 = none ↔ x = .slot0 := by
  unfold Slots.freeSlot at slot
  split at slot <;> cases slot <;> simp [*]

section
variable (s : State) (x : SlotId) (j : Job)

theorem placeJob_job_same : (s.placeJob x j).job x = some j := (placeJob_job ..).trans (if_pos rfl)

theorem placeJob_job_other : (s.placeJob x j).job (otherSlot x) = s.job (otherSlot x) :=
  (placeJob_job ..).trans (if_neg (otherSlot_ne x))

/-- A job held already is the older one (R137). -/
theorem placeJob_older : (s.placeJob x j).slots.oldest =
    some (if (s.job (otherSlot x)).isSome then otherSlot x else x) := by
  cases other : s.job (otherSlot x) with
  | some k => exact placeJob_oldest j (other ▸ Option.some_ne_none k)
  | none => cases x <;> simp_all [State.placeJob, Slots.put, Slots.oldest, State.job, Slots.get, otherSlot]

end

/-- Two tasks that arrive together are added in either order (R141, log 9). -/
theorem addTasks_list (s : State) (t u : WriteTask) :
    (s.addTasks t u).writer.list = s.writer.list ++ [t, u] ∨
      (s.addTasks t u).writer.list = s.writer.list ++ [u, t] := by
  unfold State.addTasks
  split
  · exact .inl (by simp)
  · exact .inr (by simp)

/-! ### The take (R133, R135) -/

theorem valid_iff {h : Header} :
    h.valid = true ↔ (h.kind = 1#2 ∧ 1 ≤ h.entries ∧ h.entries ≤ 64) ∨ h.kind = 2#2 := by
  simp [Header.valid, isPrintKind, isSetupKind]

section
variable {s : State} {x : SlotId} {record : Word} {h : Header} (slot : s.slots.freeSlot = some x)
include slot

theorem take_valid (valid : h.valid = true) (notAbandoning : s.ctl.engine ≠ .abandoning) :
    s.take record h = (s.takeValid x record h).endLookIdle := by
  simp [State.take, slot, valid, notAbandoning]

/-- A job that completes at once does so with HEADER_INVALID, or, its header valid, with HALTED (R133, R135). -/
theorem take_faulted (faulted : h.valid = false ∨ s.ctl.engine = .abandoning) : s.take record h =
    (s.takeFaulted x record h (if h.valid = false then .headerInvalid else .halted)).endLookIdle := by
  cases valid : h.valid with
  | false => simp [State.take, slot, valid]
  | true =>
    have abandoning : s.ctl.engine = .abandoning := by simpa [valid] using faulted
    simp [State.take, slot, valid, abandoning]

end

/-- What a take with a valid header leaves the job, the builder and the queue of tasks. -/
theorem takeValid_builder (s : State) (x : SlotId) (record : Word) (h : Header) :
    (s.takeValid x record h).builder =
      ⟨.walking, some x, 0, [], if h.kind = 1#2 then .entry else .setupBlock, none, none, s.builder.orphan⟩ := by
  simp [State.takeValid, State.beginBuild, isPrintKind, Builder.reset]

section
variable (s : State) (x : SlotId) (record : Word) (h : Header) (code : FaultCode)

/-- The state of a faulted take before its two tasks are handed to the record writer. -/
def State.takenFaulted : State :=
  (s.mapWalker fun w => { w with anchor := record }).placeJob x (h.toJob record .completing (some (code, 0)))

theorem takeFaulted_eq : s.takeFaulted x record h code =
    ((s.takenFaulted x record h code).addTasks (.release s.walker.anchor) (.completion x s.tracker.epos)).oweLook := rfl

theorem takeFaulted_job (y : SlotId) :
    (s.takeFaulted x record h code).job y = (s.takenFaulted x record h code).job y :=
  job_congr (by simp [takeFaulted_eq]) y

theorem takeFaulted_frame : (s.takeFaulted x record h code).walker =
      { s.walker with anchor := record, lookOwed := true } ∧
    (s.takeFaulted x record h code).outs = s.outs ∧ (s.takeFaulted x record h code).port = s.port ∧
    (s.takeFaulted x record h code).ctl = s.ctl ∧ (s.takeFaulted x record h code).queue = s.queue ∧
    (s.takeFaulted x record h code).builder = s.builder := by
  simp [takeFaulted_eq, State.takenFaulted, State.oweLook]

end

/-- Settles O48: a record that is READY by its header and the engine, and any other by what the exchange returned. -/
theorem takeExchange : Obligations.TakeExchange := by
  refine ⟨fun s linked header word x h address stage unreleased ready slot => ?ready,
    fun s linked header h address stage => ?other, fun _ => valid_iff⟩
  case ready =>
    intro job done left
    have taken : exec (.takeExchangeDone (.data word)) s = .next (done.take linked header).rest := by
      rw [exec_takeExchangeDone h address, exchangeBus_takes unreleased ready]
      exact next_rest_congr rfl (exchangeDone_ready (s := done) stage unreleased ready)
    have slot' : done.slots.freeSlot = some x := slot
    refine ⟨freeSlot_lower slot, fun valid notAbandoning => ?valid, fun faulted => ?faulted⟩
    case valid =>
      rw [take_valid slot' valid notAbandoning] at taken
      refine ⟨_, taken, rfl, rfl, rfl, rfl, rfl, rfl, placeJob_job_same .., placeJob_job_other .., placeJob_older ..,
        takeValid_builder ..⟩
    case faulted =>
      rw [take_faulted slot' faulted] at taken
      obtain ⟨walker, outs, port, ctl, queue, builder⟩ := takeFaulted_frame done x linked header
        (if header.valid = false then .headerInvalid else .halted)
      refine ⟨_, taken, ?_, outs, port, ctl, queue, builder, addTasks_list .., ?_, ?_⟩
      · exact congrArg (fun w : Walker => { w with state := .idle, stage := .none }) walker
      · exact (takeFaulted_job ..).trans (placeJob_job_same ..)
      · exact (takeFaulted_job ..).trans (placeJob_job_other ..)
  case other =>
    intro done
    have ended {result t} (acted : (done.onBus (exchangeBus linked result)).exchangeDone result = t) :
        exec (.takeExchangeDone result) s = .next t.rest :=
      next_rest_congr (exec_takeExchangeDone h address result) acted
    have leaves {word : Word} (other : released word = true ∨ recordState word ≠ some .ready) :
        done.onBus (exchangeBus linked (.data word)) = done := by
      rw [exchangeBus_leaves other]
      rfl
    refine ⟨ended (exchangeDone_busError stage), fun word => ⟨fun stale => ended ?_, fun unreleased empty => ended ?_,
      fun unreleased withdrawn => ended ?_⟩⟩
    · rw [leaves (staleWord_leaves stale)]
      exact exchangeDone_stale (s := done) stage stale
    · rw [leaves (.inr (by simp [empty]))]
      exact exchangeDone_empty (s := done) stage unreleased empty
    · rw [leaves (.inr (by simp [withdrawn]))]
      exact (exchangeDone_withdrawn (s := done) stage unreleased withdrawn).trans (skipRecord_eq ..)

end Sys2Proof.Machine

/-! ## O50: the record writer -/

namespace Sys2Proof.Machine

/-! ### The result words of a record (TABLE 10-1) -/

section
variable (high low : BitVec 16)

theorem extractLsb'_append_low : (high ++ low).extractLsb' 0 16 = low := by
  rw [BitVec.extractLsb'_append_eq_of_add_le (by decide), BitVec.extractLsb'_eq_self]

theorem extractLsb'_append_high : (high ++ low).extractLsb' 16 16 = high := by
  rw [BitVec.extractLsb'_append_eq_of_le (by decide), Nat.sub_self, BitVec.extractLsb'_eq_self]

end

/-! ### What the head task asks for next (R125, R141, R142) -/

section
variable {s : State}

theorem nextWrite_idle (noTask : s.writer.list = []) : s.nextWrite = none := by simp only [State.nextWrite, noTask]

theorem nextWrite_release {record : Word} {tasks : List WriteTask} (head : s.writer.list = .release record :: tasks) :
    s.nextWrite = some ⟨.release, record, 1, 0#32, true⟩ := by
  simp only [State.nextWrite, head]

section
variable {x : SlotId} {epos : Word} {tasks : List WriteTask} {j : Job}
  (head : s.writer.list = .completion x epos :: tasks) (held : s.job x = some j)
include head held

theorem nextWrite_result (left : s.writer.written < 9) : s.nextWrite =
    some ⟨.resultWrite, j.record + resultOffset s.writer.written, 1,
      resultWord j.counts epos s.writer.written, true⟩ := by
  simp only [State.nextWrite, head, held, if_pos left]

theorem nextWrite_stateUpdate (all : 9 ≤ s.writer.written) :
    s.nextWrite = some ⟨.stateUpdate, j.record, 1, 0#32, true⟩ := by
  simp only [State.nextWrite, head, held, if_neg (Nat.not_lt.mpr all)]

end

theorem tryWriter_outstanding (busy : s.port.outstanding .writer = true) : s.tryWriter = none := by
  simp [State.tryWriter, busy]

section
variable (free : s.port.outstanding .writer = false)
include free

theorem tryWriter_free : s.tryWriter = s.nextWrite.map s.request := by simp [State.tryWriter, free]

theorem tryWriter_requests {t : Transaction} (next : s.nextWrite = some t) :
    s.tryWriter = some { s with port := { s.port with writerReq := some t } } := by
  rw [tryWriter_free free, next, Option.map_some, State.request, nextWrite_requester next]
  rfl

/-- At rest the writer has nothing left to request. -/
theorem nextWrite_atRest (rest : s.AtRest) : s.nextWrite = none := by
  have noStep : s.tryWriter = none := by
    simp only [State.AtRest, State.ownStep, Option.or_eq_none_iff] at rest
    tauto
  rwa [tryWriter_free free, Option.map_eq_none_iff] at noStep

end

end

/-! ### A completed job (R142) -/

theorem completionAttention_eq (s : State) (j : Job) : s.completionAttention j = { s with
    ctl := { s.ctl with attn :=
      if j.fault ≠ none then s.ctl.attn ||| 0x02#8
      else if j.notify then s.ctl.attn ||| 0x01#8 else s.ctl.attn } } := by
  cases fault : j.fault with
  | some f =>
    rw [if_pos (Option.some_ne_none f)]
    simp only [State.completionAttention, fault]
    rfl
  | none =>
    rw [if_neg (fun faulted => faulted rfl)]
    simp only [State.completionAttention, fault]
    split <;> rfl

section
variable {s : State} (t : Transaction) {word : Word} {x : SlotId} {epos : Word} {tasks : List WriteTask} {j : Job}

/-- STATE has been written: the slot is free, the task removed, attention set and a look owed (R142). -/
theorem completed_eq (head : s.writer.list = .completion x epos :: tasks) (held : s.job x = some j) :
    s.completed t word = { s with
      slots := { s.slots.put x none with older := otherSlot x }
      writer := ⟨tasks, 0⟩
      walker := { s.walker with lookOwed := true }
      ctl := { s.ctl with attn :=
        if j.fault ≠ none then s.ctl.attn ||| 0x02#8
        else if j.notify then s.ctl.attn ||| 0x01#8 else s.ctl.attn }
      outs := { s.outs with bus := .wrote t.address (completedWord word j.fault) } } := by
  simp only [State.completed, head, held, completionAttention_eq]
  simp [State.removeTask, State.freeJob, State.onBus, State.oweLook, head]

theorem stateUpdated_taken (taken : recordState word = some .taken) :
    s.stateUpdated t (.data word) = s.completed t word := if_pos taken

theorem stateUpdated_stale (notTaken : recordState word ≠ some .taken) :
    s.stateUpdated t (.data word) = s.chainFault .staleState := if_neg notTaken

end

/-! ### A release that has ended (R134, R141) -/

section
variable {s : State} {record : Word} {tasks : List WriteTask} (head : s.writer.list = .release record :: tasks)
include head

theorem finishRelease_eq : s.finishRelease = State.releaseEnded { s with writer := ⟨tasks, 0⟩ } := by
  simp only [State.finishRelease, head, State.removeTask, List.tail_cons]

theorem finishRelease_noWait (noWait : s.walker.stage ≠ .releaseWait) :
    s.finishRelease = { s with writer := ⟨tasks, 0⟩ } := by
  rw [finishRelease_eq head, State.releaseEnded]
  split
  · exact absurd ‹_› noWait
  · rfl

/-- The look that waited for the release goes on with the new anchor's LINK. -/
theorem finishRelease_waited (waited : s.walker.stage = .releaseWait) :
    s.finishRelease = State.readLink { s with writer := ⟨tasks, 0⟩ } := by
  simp only [finishRelease_eq head, State.releaseEnded, waited]

end

/-! ### The commands that end a write (R142, R143) -/

section
variable {s : State} {t : Transaction} (live : s.pins.resetActive = false) (current : s.port.current = some t)
  (wanted : t.wanted = true)
include live current wanted

theorem exec_resultWriteDone (is : t.kind = .resultWrite) (result : WriteResult) :
    exec (.resultWriteDone result) s = .next (s.portFreed.resultWritten t result).rest :=
  event_acts live current is wanted _ fun t u => u.resultWritten t result

theorem exec_stateUpdateDone (is : t.kind = .stateUpdate) (result : WordResult) :
    exec (.stateUpdateDone result) s = .next (s.portFreed.stateUpdated t result).rest :=
  event_acts live current is wanted _ fun t u => u.stateUpdated t result

theorem exec_releaseDone (is : t.kind = .release) (result : WordResult) :
    exec (.releaseDone result) s = .next (s.portFreed.releaseDone t result).rest :=
  event_acts live current is wanted _ fun t u => u.releaseDone t result

end

/-- Settles O50: the words by their counters, the requests by the head task, and each write by how it ends. -/
theorem recordsWritten : Obligations.RecordsWritten := by
  refine ⟨fun c epos => ⟨rfl, extractLsb'_append_low .., extractLsb'_append_high .., extractLsb'_append_low ..,
      extractLsb'_append_high .., rfl, rfl, extractLsb'_append_low .., extractLsb'_append_high ..,
      extractLsb'_append_low .., extractLsb'_append_high .., rfl, rfl⟩,
    fun s => ⟨nextWrite_idle, fun _ _ => nextWrite_release, tryWriter_outstanding,
      fun _ free next => tryWriter_requests free next, fun rest free => nextWrite_atRest free rest⟩,
    fun s t live current wanted => ?ends,
    fun s x epos tasks j head held => ⟨?result, nextWrite_stateUpdate head held⟩⟩
  case result =>
    rintro k rfl left
    exact nextWrite_result head held left
  case ends =>
    intro done failed
    refine ⟨fun is => ?_, fun is => ?_, fun is => ?_⟩
    · exact ⟨exec_resultWriteDone live current wanted is _, exec_resultWriteDone live current wanted is _⟩
    · have ended {result u} (acted : done.stateUpdated t result = u) :
          exec (.stateUpdateDone result) s = .next u.rest :=
        next_rest_congr (exec_stateUpdateDone live current wanted is result) acted
      exact ⟨ended rfl, fun word => ⟨fun notTaken => ended (stateUpdated_stale t notTaken),
        fun x epos tasks j head held taken =>
          ended ((stateUpdated_taken t taken).trans (completed_eq (s := done) t head held))⟩⟩
    · have ended {result u} (acted : done.releaseDone t result = u) :
          exec (.releaseDone result) s = .next u.rest :=
        next_rest_congr (exec_releaseDone live current wanted is result) acted
      refine ⟨fun record tasks head noWait word => ended ?_, fun record tasks head waited word => ended ?_, ended rfl⟩
      · exact finishRelease_noWait (s := done.onBus _) head noWait
      · exact finishRelease_waited (s := done.onBus _) head waited

end Sys2Proof.Machine

/-! ## O55: job faults -/

namespace Sys2Proof.Machine

/-! ### A fault the builder raises (R22) -/

section
variable {s : State} (code : FaultCode) (entry : Nat)

theorem faultBuilding_some {x : SlotId} (building : s.builder.job = some x) :
    s.faultBuilding code entry = s.takeFault x code entry := by
  simp only [State.faultBuilding, building]

theorem faultBuilding_none (noJob : s.builder.job = none) : s.faultBuilding code entry = s := by
  simp only [State.faultBuilding, noJob]

end

/-! ### The purge and the abandon of a faulted job (R23, R41, R44, R45) -/

section
variable (s : State) (x : SlotId)

theorem purge_staging : (s.purge x).staging = if Item.setup x ∈ s.queue then .empty else s.staging := by
  simp [State.purge]

theorem abandon_staging : (s.abandon x).staging =
    if s.builder.held = some (.setup x) ∨ s.builder.task = .setupItem then .empty else s.staging := by
  simp [State.abandon]

theorem abandon_owesLook : (s.abandon x).walker.lookOwed = true := rfl

/-- The builder is FREE, with the slot named whose read is outstanding (R45). -/
theorem abandon_builder_eq : (s.abandon x).builder = { Builder.reset with
    orphan := if s.builder.state = .fetching ∧ s.builder.want = none then some x else s.builder.orphan } := by
  simp [State.abandon, Builder.reading]

end

/-! ### The first fault of a job (R139) -/

section
variable (s : State) (x : SlotId) (code : FaultCode) (entry : Nat)

/-- The state in which a fault is noted and its job's items are purged, the builder yet to abandon it. -/
def State.faultPurged : State := (s.mapJob x fun j => { j with fault := some (code, entry) }).purge x

/-- The state in which the builder has abandoned the job, too, when it was building it. -/
def State.faultLeft : State :=
  if s.builder.job = some x then (s.faultPurged x code entry).abandon x else s.faultPurged x code entry

variable {s x}

theorem takeFault_eq (faultable : s.faultable x = true) : s.takeFault x code entry =
    if s.countingJob = some x then (s.faultLeft x code entry).printOut else s.faultLeft x code entry := by
  simp [State.takeFault, faultable, State.faultLeft, State.faultPurged]

/-- The print state has no part in what the purge and the abandon do. -/
theorem takeFault_left (faultable : s.faultable x = true) :
    (s.takeFault x code entry).staging = (s.faultLeft x code entry).staging ∧
    (s.takeFault x code entry).builder = (s.faultLeft x code entry).builder ∧
    (s.takeFault x code entry).walker = (s.faultLeft x code entry).walker := by
  rw [takeFault_eq code entry faultable]
  split <;> exact ⟨rfl, rfl, rfl⟩

theorem faultPurged_frame : (s.faultPurged x code entry).builder = s.builder ∧
    (s.faultPurged x code entry).walker = s.walker := by
  simp [State.faultPurged]

theorem faultPurged_staging : (s.faultPurged x code entry).staging =
    if Item.setup x ∈ s.queue then .empty else s.staging := by
  simp [State.faultPurged, purge_staging]

theorem faultLeft_firing : (s.faultLeft x code entry).firing = s.firing := by
  unfold State.faultLeft
  split <;> simp [State.faultPurged]

theorem faultLeft_building (building : s.builder.job = some x) :
    s.faultLeft x code entry = (s.faultPurged x code entry).abandon x := if_pos building

theorem faultLeft_notBuilding (notBuilding : s.builder.job ≠ some x) :
    s.faultLeft x code entry = s.faultPurged x code entry := if_neg notBuilding

/-- The staging area is emptied when it stands for a SETUP of the job, in the queue or with the builder (R41, R44). -/
theorem faultLeft_staging : (s.faultLeft x code entry).staging =
    if Item.setup x ∈ s.queue ∨
      s.builder.job = some x ∧ (s.builder.held = some (.setup x) ∨ s.builder.task = .setupItem) then .empty
    else s.staging := by
  by_cases building : s.builder.job = some x
  · rw [faultLeft_building _ _ building, abandon_staging, faultPurged_staging, (faultPurged_frame code entry).1]
    by_cases queued : Item.setup x ∈ s.queue <;> simp [building, queued]
  · rw [faultLeft_notBuilding _ _ building, faultPurged_staging]
    simp [building]

end

/-- Settles O55: the first fault by what it purges, abandons and stops; a later one by `takeFault_no`. -/
theorem jobFaultTaken : Obligations.JobFaultTaken := by
  refine ⟨fun s code entry => ⟨fun x => faultBuilding_some code entry, faultBuilding_none code entry⟩,
    fun s x code entry => ⟨fun j held unfaulted working => ?first, fun j held later => ?later, fun free => ?free⟩⟩
  case first =>
    have faultable := faultable_of held unfaulted working
    have spec := takeFault_spec faultable code entry
    obtain ⟨staging, builder, walker⟩ := takeFault_left code entry faultable
    obtain ⟨purgedBuilder, purgedWalker⟩ := faultPurged_frame (s := s) (x := x) code entry
    obtain ⟨ctl, writer, tracker, mapper, head, -⟩ := takeFault_frame s x code entry
    intro t
    refine ⟨?job, spec.other _ (otherSlot_ne x), spec.queue, fun queued => ?_, fun notQueued => ?_,
      fun building => ?building, fun notBuilding => ?notBuilding, fun counting => ?_, fun notCounting => ?_,
      ctl, head, tracker, mapper, writer⟩
    case job =>
      obtain ⟨k, heldThere, -, -, now⟩ := spec.job
      cases held.symm.trans heldThere
      exact ⟨_, now, rfl, rfl, rfl, rfl, rfl⟩
    case building =>
      have left := faultLeft_building code entry building
      rw [left] at builder walker
      rw [show t.builder = _ from builder, show t.walker = _ from walker, abandon_builder_eq, purgedBuilder]
      exact ⟨rfl, rfl, rfl, abandon_owesLook .., rfl⟩
    case notBuilding =>
      have left := faultLeft_notBuilding code entry notBuilding
      rw [left] at builder walker
      exact ⟨builder.trans purgedBuilder, walker.trans purgedWalker⟩
    · exact staging.trans ((faultLeft_staging ..).trans (if_pos (.inl queued)))
    · exact staging.trans ((faultLeft_staging ..).trans (by simp only [notQueued, false_or]))
    · simp only [t, takeFault_eq code entry faultable, if_pos counting, State.printOut, faultLeft_firing]
    · simp only [t, takeFault_eq code entry faultable, if_neg notCounting, faultLeft_firing]
  case later =>
    refine takeFault_no ?_ code entry
    rcases later with faulted | completing
    · simp [State.faultable, held, faulted]
    · simp [State.faultable, held, completing]
  case free => exact takeFault_no (by simp [State.faultable, free]) code entry

end Sys2Proof.Machine

/-! ## O49: chain faults -/

namespace Sys2Proof.Machine

/-! ### The port at the entry to FAULTED (R136, R145, R166, log 12) -/

section
variable {p : Port} {t : Transaction}

theorem atFault_busy (busy : p.current = some t) : p.atFault.current = some t.disowned := by
  simp [Port.atFault, busy]

variable (free : p.current = none)
include free

/-- With the port free it is the grant that the end of the transaction gives, the writer's request gone. -/
theorem atFault_free :
    p.atFault.current = ({ p with writerReq := none } : Port).grantNext.current.map Transaction.disowned := by
  simp [Port.atFault, free]

theorem atFault_builder (builder : p.builderReq = some t) (due : p.builderWaited = true ∨ p.walkerReq = none) :
    p.atFault.current = some t.disowned := by
  have granted : ({ p with writerReq := none } : Port).granted = some .builder := by
    rcases due with waited | noWalker
    · exact granted_builder_waited builder waited
    · exact granted_builder_alone builder rfl noWalker
  rw [atFault_free free, Port.grantNext, granted]
  exact congrArg (Option.map Transaction.disowned) builder

theorem atFault_walker (walker : p.walkerReq = some t) (notDue : p.builderReq = none ∨ p.builderWaited = false) :
    p.atFault.current = some t.disowned := by
  have granted : ({ p with writerReq := none } : Port).granted = some .walker := granted_walker notDue walker rfl
  rw [atFault_free free, Port.grantNext, granted]
  exact congrArg (Option.map Transaction.disowned) walker

theorem atFault_noRequest (noBuilder : p.builderReq = none) (noWalker : p.walkerReq = none) :
    p.atFault.current = none := by
  have granted : ({ p with writerReq := none } : Port).granted = none := granted_none noBuilder rfl noWalker
  rw [atFault_free free, Port.grantNext, granted]
  exact congrArg (Option.map Transaction.disowned) free

end

/-! ### The head at its entry to OFF (R112, R116, R172) -/

section
variable (s : State)

/-- The shift is aborted, the head's timers stop and tickle is inactive; the settings stay. -/
theorem headOff_head : s.headOff.head.state = .off ∧ s.headOff.head.shift = .idle ∧
    s.headOff.head.warmupTimer = .stopped ∧ s.headOff.head.idleTimer = .stopped ∧
    s.headOff.head.periodTimer = .stopped ∧ s.headOff.head.tickleActive = false ∧ s.headOff.head.periodCount = 0 ∧
    s.headOff.head.settings = s.head.settings := by
  obtain ⟨-, settings, -⟩ := abortShift_link s
  exact ⟨rfl, abortShift_idle s, rfl, rfl, rfl, rfl, rfl, settings⟩

/-- HL_CLR is pulsed once for the entry, and once for a shift in flight. -/
theorem headOff_outs :
    s.headOff.outs = { s.outs with clr := s.outs.clr + (if s.head.shift = .idle then 0 else 1) + 1 } := by
  obtain ⟨-, -, outs⟩ := abortShift_link s
  exact congrArg (fun o : Outputs => { o with clr := o.clr + 1 }) outs

/-- With no job held there is none to account a row of a shift to. -/
theorem abortShift_noJob (noJob : ∀ x, s.job x = none) : s.abortShift = s ∨ s.abortShift = s.stopShift := by
  cases shift : s.head.shift with
  | idle => exact .inl (by simp only [State.abortShift, shift])
  | tickle => exact .inr (by simp only [State.abortShift, shift])
  | row codes x substitutions lostDots =>
    have free : s.stopShift.job x = none := noJob x
    exact .inr (by simp only [State.abortShift, shift, State.discardRows, State.mapJob, free])

/-- Nothing else changes then. -/
theorem headOff_eq (noJob : ∀ x, s.job x = none) : s.headOff = { s with
    head := s.headOff.head
    outs := { s.outs with clr := s.outs.clr + (if s.head.shift = .idle then 0 else 1) + 1 }
    free := s.headOff.free } := by
  rw [← headOff_outs]
  rcases abortShift_noJob s noJob with same | stopped
  · simp [State.headOff, same]
  · simp [State.headOff, stopped]

end

/-! ### The entry to FAULTED (R136) -/

/-- Every block but the head link has let go of its work. -/
def State.emptied (s : State) (cause : ChainCause) : State := { s with
  ctl := { s.ctl with engine := .faulted, chainCause := cause }
  slots := Slots.reset
  writer := ⟨[], 0⟩
  queue := []
  staging := .empty
  builder := Builder.reset
  port := s.port.atFault
  walker := s.walker.atFault
  tracker := s.tracker.forget
  firing := s.firing.rest }

section
variable {s : State} (cause : ChainCause)

theorem chainFault_eq (notFaulted : s.ctl.engine ≠ .faulted) : s.chainFault cause = { s.emptied cause with
    ctl := ⟨.faulted, s.ctl.refused, s.ctl.attn ||| 0x04#8, s.ctl.attnEn, cause⟩
    head := (s.emptied cause).headOff.head
    outs := { s.outs with clr := s.outs.clr + (if s.head.shift = .idle then 0 else 1) + 1 }
    free := (s.emptied cause).headOff.free } := by
  have noJob (x : SlotId) : (s.emptied cause).job x = none := by cases x <;> rfl
  have entered : s.chainFault cause = (s.emptied cause).headOff.raise .chain := if_neg notFaulted
  rw [entered, headOff_eq _ noJob]
  rfl

theorem chainFault_faulted (faulted : s.ctl.engine = .faulted) : s.chainFault cause = s := if_pos faulted

end

/-- Settles O49: every block but the head as it is emptied, the head by its entry to OFF, the port by the arbiter. -/
theorem chainFaultTaken : Obligations.ChainFaultTaken := by
  refine ⟨fun s cause notFaulted => ?_, fun s cause => chainFault_faulted cause⟩
  obtain ⟨off, idle, warmup, idleTimer, period, inactive, count, settings⟩ := headOff_head (s.emptied cause)
  rw [chainFault_eq cause notFaulted]
  exact ⟨rfl, rfl, rfl, rfl, rfl, rfl, rfl, rfl, fun x => atFault_busy,
    fun free => ⟨fun x => atFault_builder free, fun x => atFault_walker free, atFault_noRequest free⟩,
    rfl, rfl, rfl, rfl, rfl, rfl, rfl, off, idle, warmup, idleTimer, period, inactive, count, settings, rfl, rfl, rfl,
    rfl⟩

end Sys2Proof.Machine

/-! ## O26: a SETUP that is applied -/

namespace Sys2Proof.Machine

/-! ### The parts of the owners (R50, R121, R153, R154) -/

/-- A new limit below DEBT cuts it; a higher one leaves it (R50). -/
theorem applySetup_debt (t : Tracker) (p : SetupParams) :
    (t.applySetup p).debt = if p.reverseLimit < t.debt then p.reverseLimit else t.debt :=
  (min_comm t.debt p.reverseLimit).trans (min_def_lt p.reverseLimit t.debt)

section
variable {s : State} (p : SetupParams)

/-- With the head READY tickle starts over, and the idle timer runs with the new TICKLE_IDLE, which 0 turns off. -/
theorem applyHeadSetup_ready (ready : s.head.state = .ready) : s.applyHeadSetup p = { s with
    head := { s.head with
      settings := headSettingsOf p
      tickleActive := false
      periodTimer := .stopped
      periodCount := 0
      idleTimer := timerOf p.tickleIdle } } := if_pos ready

/-- In every other head state the settings alone are replaced. -/
theorem applyHeadSetup_notReady (notReady : s.head.state ≠ .ready) :
    s.applyHeadSetup p = { s with head := { s.head with settings := headSettingsOf p } } := if_neg notReady

/-! ### What is applied (R150) -/

/-- The staged block is applied, with the staged map when there is one. -/
theorem applyStaged_staged {map : Option (List NozzleState)}
    (staged : s.staging = match map with | none => .block p | some m => .blockAndMap p m) :
    s.applyStaged = s.applyParams p map := by
  cases map with
  | none => simp only [State.applyStaged, staged]
  | some m => simp only [State.applyStaged, staged]

end

/-- Settles O26: what is staged goes to its owners, DEBT by the new limit, and the head link by its state. -/
theorem setupApplied : Obligations.SetupApplied := by
  intro s p map staged
  rw [applyStaged_staged p staged, ← applySetup_debt]
  by_cases ready : s.head.state = .ready
  · rw [if_pos ready]
    exact applyHeadSetup_ready p ready
  · rw [if_neg ready]
    exact applyHeadSetup_notReady p ready

end Sys2Proof.Machine

/-! ## O4, O60: the state at reset -/

namespace Sys2Proof.Machine

/-- Settles O4: every block by its own reset value, the drop table and STATUS by evaluation. -/
theorem resetState : Obligations.ResetState := by
  refine ⟨rfl, rfl, rfl, rfl, rfl, rfl, rfl, rfl, rfl, rfl, rfl, rfl, rfl, rfl, rfl, rfl, rfl, rfl, rfl, rfl, rfl, rfl,
    rfl, ?levels, ?overlays, ?weak, rfl, ?status⟩
  case levels => decide
  case overlays => decide
  case weak => decide
  case status => decide

/-- Settles O60: each invariant holds right after any reset. -/
theorem resetMeetsInvariants : Obligations.ResetMeetsInvariants :=
  ⟨bounded_afterReset _ _ _ _ _, consistent_afterReset _ _ _ _ _, linked_afterReset _ _ _ _ _,
    ordered_afterReset _ _ _ _ _⟩

end Sys2Proof.Machine

/-! ## O9, O10, O11: commands that are refused, accepted with no change, or owe one thing -/

namespace Sys2Proof.Machine

section
variable {s : State}

/-! ### The engine states in which each command is refused (TABLE 9-4) -/

theorem doStart_refused (notStopped : s.ctl.engine ≠ .stopped) (notDraining : s.ctl.engine ≠ .draining) :
    s.doStart = s.refuse := by
  cases state : s.ctl.engine with
  | stopped => exact absurd state notStopped
  | draining => exact absurd state notDraining
  | running | abandoning | faulted => simp only [State.doStart, state]

theorem doStop_refused (notRunning : s.ctl.engine ≠ .running) (notDraining : s.ctl.engine ≠ .draining) :
    s.doStop = s.refuse := by
  cases state : s.ctl.engine with
  | running => exact absurd state notRunning
  | draining => exact absurd state notDraining
  | stopped | abandoning | faulted => simp only [State.doStop, state]

theorem doSkip_refused (notRunning : s.ctl.engine ≠ .running) (notDraining : s.ctl.engine ≠ .draining) :
    s.doSkip = s.refuse := by
  cases state : s.ctl.engine with
  | running => exact absurd state notRunning
  | draining => exact absurd state notDraining
  | stopped | abandoning | faulted => simp only [State.doSkip, state]

theorem doLook_refused (notRunning : s.ctl.engine ≠ .running) :
    s.doLook = s.refuse := by
  cases state : s.ctl.engine with
  | running => exact absurd state notRunning
  | stopped | draining | abandoning | faulted => simp only [State.doLook, state]

theorem doStop_draining (draining : s.ctl.engine = .draining) : s.doStop = s.accept := by
  simp only [State.doStop, draining]

theorem doHalt_faulted (faulted : s.ctl.engine = .faulted) : s.doHalt = s.refuse := by
  simp only [State.doHalt, faulted]

/-- With nothing to abandon, or that done already, HALT is accepted with no change (R163). -/
theorem doHalt_accepted (idle : s.ctl.engine = .stopped ∨ s.ctl.engine = .abandoning) : s.doHalt = s.accept := by
  rcases idle with state | state <;> simp only [State.doHalt, state]

/-! ### The commands where they act -/

theorem doStart_stopped (stopped : s.ctl.engine = .stopped) :
    s.doStart = ((s.accept.setEngine .running).powerHead.oweLook).rest := by
  simp only [State.doStart, stopped]

theorem doStart_draining (draining : s.ctl.engine = .draining) :
    s.doStart = ((s.accept.setEngine .running).oweLook).rest := by
  simp only [State.doStart, draining]

theorem doStop_running (running : s.ctl.engine = .running) :
    s.doStop = ((s.accept.setEngine .draining).ceaseLooking).rest := by
  simp only [State.doStop, running]

theorem doHalt_acts (active : s.ctl.engine = .running ∨ s.ctl.engine = .draining) :
    s.doHalt = s.accept.enterAbandoning.rest := by
  rcases active with state | state <;> simp only [State.doHalt, state]

theorem doSkip_acts (active : s.ctl.engine = .running ∨ s.ctl.engine = .draining) : s.doSkip = s.skipCounting := by
  rcases active with state | state <;> simp only [State.doSkip, state]

theorem doLook_running (running : s.ctl.engine = .running) : s.doLook = s.accept.oweLook.rest := by
  simp only [State.doLook, running]

/-! ### SKIP of the counting job (R164) -/

theorem skipCounting_none (noJob : s.countingJob = none) : s.skipCounting = s.refuse := by
  simp only [State.skipCounting, noJob]

section
variable {x : SlotId} {j : Job} (counting : s.countingJob = some x) (held : s.job x = some j)
include counting held

theorem skipCounting_faulted (faulted : j.fault ≠ none) : s.skipCounting = s.refuse := by
  have spared : s.faultable x = false := by simp [State.faultable, held, faulted]
  simp [State.skipCounting, counting, spared]

theorem skipCounting_cancels (noFault : j.fault = none) :
    s.skipCounting = (s.accept.takeFault x .cancelled 0).rest := by
  simp only [State.skipCounting, counting, if_pos (faultable_of held noFault (counting_phase counting held))]

end

/-- A SKIP that finds no job to cancel is refused in whatever engine state. -/
theorem doSkip_of_skipCounting (refused : s.skipCounting = s.refuse) : s.doSkip = s.refuse := by
  by_cases active : s.ctl.engine = .running ∨ s.ctl.engine = .draining
  · rw [doSkip_acts active, refused]
  · exact doSkip_refused (fun running => active (.inl running)) fun draining => active (.inr draining)

/-! ### CHAIN (R126) -/

theorem writeChain_refused {value : Word} (h : s.ctl.engine ≠ .stopped ∨ value.toNat % 32 ≠ 0) :
    s.writeChain value = s.refuse :=
  if_neg fun ⟨stopped, isAligned⟩ => h.elim (absurd stopped) (absurd ((aligned_iff 32 value).mp isAligned))

theorem writeChain_accepted {value : Word} (stopped : s.ctl.engine = .stopped) (isAligned : value.toNat % 32 = 0) :
    s.writeChain value = s.accept.mapWalker fun w => { w with anchor := value } :=
  if_pos ⟨stopped, (aligned_iff 32 value).mpr isAligned⟩

/-! ### The command as the block takes it -/

/-- The lines at rest and REFUSED set are the whole of a refused command (R159). -/
theorem event_refused (live : s.pins.resetActive = false) {f : State → State} (refused : f s.quiet = s.quiet.refuse) :
    event s f = .next (s.withRefused true) := by
  rw [event_live live, refused]
  rfl

/-- A command that is accepted and has nothing to do clears REFUSED (R159). -/
theorem event_accepted (live : s.pins.resetActive = false) {f : State → State} (accepted : f s.quiet = s.quiet.accept) :
    event s f = .next (s.withRefused false) := by
  rw [event_live live, accepted]
  rfl

end

theorem exec_chainWrite {s : State} (live : s.pins.resetActive = false) (value : Word) :
    exec (.chainWrite value) s = .next (s.quiet.writeChain value) :=
  event_live live (State.writeChain · value)

theorem countingJob_quiet (s : State) : s.quiet.countingJob = s.countingJob := countingJob_congr rfl

/-- Settles O9: a counting job with no fault can take one, since it is not COMPLETING. -/
theorem skipCancels : Obligations.SkipCancels := by
  intro s x j live active counting held noFault
  have skips : s.quiet.doSkip = (s.quiet.accept.takeFault x .cancelled 0).rest :=
    (doSkip_acts (s := s.quiet) active).trans (skipCounting_cancels ((countingJob_quiet s).trans counting) held noFault)
  exact (event_live live State.doSkip).trans (congrArg Host.Outcome.next skips)

/-- Settles O10: LOOK owes a look in RUNNING, and is refused elsewhere. -/
theorem lookOwesALook : Obligations.LookOwesALook := by
  refine fun s live => ⟨fun running => ?_, fun notRunning => event_refused live (doLook_refused notRunning)⟩
  exact (event_live live State.doLook).trans (congrArg Host.Outcome.next (doLook_running (s := s.quiet) running))

/-- Settles O11: each command by the engine state, SKIP by the counting job too, CHAIN by the address. -/
theorem commandsRefused : Obligations.CommandsRefused := fun s live =>
  have quietCounting := countingJob_quiet s
  ⟨fun notStopped notDraining => event_refused live (doStart_refused notStopped notDraining),
    fun notRunning notDraining => event_refused live (doStop_refused notRunning notDraining),
    fun draining => event_accepted live (doStop_draining draining),
    fun faulted => event_refused live (doHalt_faulted faulted),
    fun idle => event_accepted live (doHalt_accepted idle),
    fun notRunning notDraining => event_refused live (doSkip_refused notRunning notDraining),
    fun noJob => event_refused live (doSkip_of_skipCounting (skipCounting_none (quietCounting.trans noJob))),
    fun _ _ counting held faulted =>
      event_refused live (doSkip_of_skipCounting (skipCounting_faulted (quietCounting.trans counting) held faulted)),
    fun value other => event_refused live (f := (State.writeChain · value)) (writeChain_refused other),
    fun value stopped isAligned => (exec_chainWrite live value).trans
      (congrArg Host.Outcome.next (writeChain_accepted (s := s.quiet) stopped isAligned))⟩

end Sys2Proof.Machine

/-! ## O12, O13: the attention flags and their enables -/

namespace Sys2Proof.Machine

/-- Settles O12: the flags are those whose positions in the value hold 0. -/
theorem attnWriteClears : Obligations.AttnWriteClears := by
  refine fun s value live =>
    ⟨s.ctl.attn &&& ~~~value.setWidth 8, event_live live (State.writeAttn · value), fun i inFlags => ?_⟩
  simp [inFlags]

/-- The ATTN line by the positions of the flags (R169). -/
theorem attnLine_iff (s : State) :
    s.attnLine = true ↔ ∃ i < 8, s.ctl.attn.getLsbD i = true ∧ s.ctl.attnEn.getLsbD i = true := by
  rw [State.attnLine, bne_iff_ne, ← not_iff_not, not_not]
  constructor
  · rintro none ⟨i, -, flag, enable⟩
    have bit := congrArg (·.getLsbD i) none
    simp [flag, enable] at bit
  · intro noFlag
    apply BitVec.eq_of_getLsbD_eq
    intro i inFlags
    have notBoth := fun both => noFlag ⟨i, inFlags, both⟩
    simpa using notBoth

/-- A read of ATTN or ATTN_EN holds the eight positions in its low byte (TABLE 10-8). -/
theorem setWidth_flags (flags : BitVec 8) : flags.setWidth 32 = 0#24 ++ flags := by
  rw [BitVec.setWidth_eq_append (by decide)]
  rfl

/-- With no flag set the line is inactive, whatever the enables. -/
theorem attnLine_clear {s : State} (clear : s.ctl.attn = 0#8) : s.attnLine = false := by
  simp [State.attnLine, clear]

/-- Settles O13: the enables as written, the line by its positions, and both resets by the flags they clear. -/
theorem attnEnableWrite : Obligations.AttnEnableWrite := by
  refine ⟨fun s value live => ?written, attnLine_iff, fun s => setWidth_flags _, fun s live => ⟨?soft, ?pin⟩⟩
  case written =>
    rw [← BitVec.setWidth_eq_extractLsb' (by decide)]
    exact event_live live (State.writeAttnEn · value)
  case soft => exact ⟨_, event_live live State.softReset, rfl, attnLine_clear rfl⟩
  case pin => exact ⟨_, event_live live State.pinReset, rfl, attnLine_clear rfl⟩

end Sys2Proof.Machine

/-! ## O14: the register window -/

namespace Sys2Proof.Machine

/-! ### Writes (R158, R159) -/

theorem toNat_ne {value : Word} {n : Nat} (small : n < 2 ^ 32) (other : value ≠ BitVec.ofNat 32 n) : value.toNat ≠ n :=
  fun same => other (BitVec.eq_of_toNat_eq (by rw [same, BitVec.toNat_ofNat, Nat.mod_eq_of_lt small]))

/-- A value that is the code of no command is refused (R159). -/
theorem writeControl_refused {s : State} {value : Word}
    (noCommand : ∀ n ∈ [1, 2, 3, 4, 5, 15], value ≠ BitVec.ofNat 32 n) : s.writeControl value = s.refuse := by
  unfold State.writeControl
  split
  case h_7 => rfl
  all_goals exact absurd ‹value.toNat = _› (toNat_ne (by decide) (noCommand _ (by decide)))

/-- A write of 4 bytes at an offset without a register to write is disregarded (R158, log 18). -/
theorem writeRegister_elsewhere {s : State} {offset : Word}
    (elsewhere : ∀ n ∈ [0x04, 0x0C, 0x10, 0x14], offset ≠ BitVec.ofNat 32 n) (value : Word) :
    s.writeRegister offset 4 value = s := by
  unfold State.writeRegister
  rw [if_neg (by simp)]
  split
  case h_5 => rfl
  all_goals exact absurd ‹offset.toNat = _› (toNat_ne (by decide) (elsewhere _ (by decide)))

theorem writeRegister_short {s : State} {bytes : Nat} (short : bytes ≠ 4) (offset value : Word) :
    s.writeRegister offset bytes value = s := if_pos short

theorem exec_registerWrite_disregarded {s : State} {offset value : Word} {bytes : Nat}
    (disregarded : ∀ t : State, t.writeRegister offset bytes value = t) :
    exec (.registerWrite offset bytes value) s = .next { s with outs := Outputs.none } := by
  have stays : event s (fun t => t.writeRegister offset bytes value) = .next s.quiet := by
    simp only [event, disregarded, ite_self]
  exact stays

/-! ### Reads (R158, TABLE 9-2) -/

theorem readRegister_beyond (s : State) {offset : Nat} (beyond : 0x14 < offset) : s.readRegister offset = 0#32 := by
  unfold State.readRegister
  split
  case h_6 => rfl
  all_goals omega

/-- A byte is the addressed one of its register. -/
theorem readByte_eq (s : State) {offset k : Nat} (isAligned : offset % 4 = 0) (small : k < 4) :
    s.readByte (offset + k) = (s.readRegister offset).extractLsb' (8 * k) 8 := by
  have byte : (offset + k) % 4 = k := by omega
  rw [State.readByte, byte, Nat.add_sub_cancel]

/-- Settles O14: CONTROL by its code, each other register by its own write, every other write disregarded, and the
reads by their offsets. -/
theorem registerWindow : Obligations.RegisterWindow := by
  refine ⟨fun s value => ⟨?control, rfl, rfl, rfl⟩, fun s offset value bytes other => ?disregarded,
    fun s => ⟨rfl, rfl, rfl, rfl, setWidth_flags _, setWidth_flags _, fun _ => readRegister_beyond s,
      fun _ _ => readByte_eq s⟩⟩
  case control =>
    split_ifs with h1 h2 h3 h4 h5 h15 active
    case pos => subst h1; rfl
    case pos => subst h2; rfl
    case pos => subst h3; rfl
    case pos => subst h4; rfl
    case pos => subst h5; rfl
    case pos => subst h15; rfl
    case pos => exact congrArg Host.Outcome.next (if_pos active)
    case neg =>
      refine event_refused (by simpa using active) (f := (State.writeControl · value)) (writeControl_refused ?_)
      simp [*]
  case disregarded =>
    refine exec_registerWrite_disregarded fun t => ?_
    by_cases short : bytes = 4
    · subst short
      obtain ⟨h4, hC, h10, h14⟩ := other.resolve_left (fun n => n rfl)
      exact writeRegister_elsewhere (by simp [*]) value
    · exact writeRegister_short short offset value

end Sys2Proof.Machine

/-! ## O15: the fields of STATUS -/

namespace Sys2Proof.Machine

section
variable (s : State)

/-- Every field stands in its bits, the bits between are 0 (TABLE 10-7). -/
theorem status_fields :
    s.status.extractLsb' 0 3 = s.ctl.engine.code ∧ s.status.extractLsb' 3 2 = s.head.state.code ∧
    s.status.extractLsb' 5 1 = s.tracker.web.code ∧ s.status.extractLsb' 6 1 = s.firing.print.code ∧
    s.status.extractLsb' 7 1 = BitVec.ofBool s.ctl.refused ∧ s.status.extractLsb' 8 2 = s.head.shift.code ∧
    s.status.extractLsb' 10 3 = s.ctl.chainCause.code ∧ s.status.extractLsb' 13 3 = 0#3 ∧
    s.status.extractLsb' 16 4 = BitVec.ofNat 4 s.queue.length ∧
    s.status.extractLsb' 20 4 = BitVec.ofNat 4 s.tracker.marks.length ∧
    s.status.extractLsb' 24 2 = BitVec.ofNat 2 s.slots.occupied ∧ s.status.extractLsb' 26 2 = 0#2 ∧
    s.status.extractLsb' 28 3 = BitVec.ofNat 3 s.builder.stack.length ∧ s.status.extractLsb' 31 1 = 0#1 := by
  simp (disch := decide) only [State.status, BitVec.extractLsb'_append_eq_of_le, BitVec.extractLsb'_append_eq_right,
    Nat.reduceSub, BitVec.extractLsb'_eq_self, and_self]

theorem web_code_iff : s.tracker.web.code = 1#1 ↔ s.tracker.web = .moving := by
  cases s.tracker.web <;> decide

theorem print_code_iff : s.firing.print.code = 1#1 ↔ s.firing.print = .into := by
  cases s.firing.print <;> decide

theorem occupied_eq : s.slots.occupied =
    (if s.slots.slot0 = none then 0 else 1) + (if s.slots.slot1 = none then 0 else 1) := by
  have count (slot : Option Job) : slot.isSome.toNat = if slot = none then 0 else 1 := by cases slot <;> rfl
  rw [Slots.occupied, count, count]

end

/-- A field of one bit. -/
theorem getLsbD_eq_field {w : Nat} (x : BitVec w) (i : Nat) {b : BitVec 1} (field : x.extractLsb' i 1 = b) :
    x.getLsbD i = (b == 1#1) := by
  rw [BitVec.getLsbD_eq_extractLsb', field]

/-- A depth that its field can hold is shown as it is. -/
theorem toNat_field {x : Word} {lo len n : Nat} (field : x.extractLsb' lo len = BitVec.ofNat len n)
    (small : n < 2 ^ len) : (x.extractLsb' lo len).toNat = n := by
  rw [field, BitVec.toNat_ofNat, Nat.mod_eq_of_lt small]

/-- Settles O15: each field from its bits, the depths by their bounds. -/
theorem statusFields : Obligations.StatusFields := by
  intro s bounded
  obtain ⟨engine, head, web, print, refused, shift, cause, below16, queue, marks, slots, below28, stack, top⟩ :=
    status_fields s
  have queueFits : s.queue.length ≤ 8 := bounded.queue
  have marksFit : s.tracker.marks.length ≤ 8 := bounded.marks
  have stackFits : s.builder.stack.length ≤ 4 := bounded.stack
  have slotsFit : s.slots.occupied ≤ 2 := by
    rw [occupied_eq]
    split_ifs <;> decide
  refine ⟨engine, head, ?web, ?print, ?refused, shift, cause, below16, toNat_field queue (by omega),
    toNat_field marks (by omega), (toNat_field slots (by omega)).trans (occupied_eq s), below28,
    toNat_field stack (by omega), getLsbD_eq_field _ _ top⟩
  case web => rw [getLsbD_eq_field _ _ web, beq_iff_eq, web_code_iff]
  case print => rw [getLsbD_eq_field _ _ print, beq_iff_eq, print_code_iff]
  case refused =>
    rw [getLsbD_eq_field _ _ refused]
    cases s.ctl.refused <;> rfl

end Sys2Proof.Machine

/-! ## O5: the resets -/

namespace Sys2Proof.Machine

/-- The pulses of a soft reset: one, and one for a shift it ends. -/
theorem clearPulses_eq (h : HeadLink) : h.clearPulses = (if h.shift = .idle then 0 else 1) + 1 := by
  by_cases idle : h.shift = .idle <;> simp [HeadLink.clearPulses, idle]

/-! ### What a reset leaves on the bus (R146, log 29) -/

section
variable {t : Transaction}

theorem transaction_busAtReset_write (result : t.kind = .resultWrite) : t.busAtReset = .wrote t.address t.value := by
  simp only [Transaction.busAtReset, result]

theorem transaction_busAtReset_locked
    (locked : t.kind = .takeExchange ∨ t.kind = .stateUpdate ∨ t.kind = .release) :
    t.busAtReset = .mayHaveWritten t.address := by
  rcases locked with kind | kind | kind <;> simp only [Transaction.busAtReset, kind]

theorem transaction_busAtReset_read
    (read : t.kind ∉ [TxKind.resultWrite, .takeExchange, .stateUpdate, .release]) : t.busAtReset = .nothing := by
  cases kind : t.kind <;> simp_all [Transaction.busAtReset]

end

/-! ### Commands while RESET is active (R170) -/

/-- The pins once the lines have followed a command (TABLE 0-2). -/
def State.linesAfter (s : State) (c : Instr) : Pins :=
  match c with
  | .encoderStep .forward => { s.pins with enc := s.pins.enc.forward }
  | .encoderStep .reverse => { s.pins with enc := s.pins.enc.reverse }
  | .illegalTransition => { s.pins with enc := s.pins.enc.flip }
  | .markActiveEdge => { s.pins with mark := s.tracker.edgeInUse.level }
  | .markInactiveEdge => { s.pins with mark := !s.tracker.edgeInUse.level }
  | .headPresentActive => { s.pins with headPresent := true }
  | .headPresentInactive => { s.pins with headPresent := false }
  | .entryReadDone _ batch => { s.pins with batch := batch }
  | _ => s.pins

section
variable {s : State}

/-- No command but those of the RESET input moves RESET. -/
theorem linesAfter_resetActive (c : Instr) : (s.linesAfter c).resetActive = s.pins.resetActive := by
  unfold State.linesAfter
  split <;> rfl

/-- An event that comes with no edge is one that leaves the pins where they are. -/
theorem event_eq_pinEvent {pins : Pins} (unmoved : pins = s.pins) (f : State → State) :
    event s f = pinEvent s pins f := by
  rw [unmoved]
  rfl

/-- While RESET is active the pins follow their lines and nothing else happens. -/
theorem pinEvent_held {pins : Pins} (active : pins.resetActive = true) (f : State → State) :
    pinEvent s pins f = .next { s with pins := pins, outs := Outputs.none } :=
  congrArg Host.Outcome.next (if_pos active)

/-- A line that has the level of the command already gives no edge (log 8), and does not move. -/
theorem exec_eq_pinEvent_linesAfter {c : Instr} (notRelease : c ≠ .pinResetRelease) :
    ∃ f, exec c s = pinEvent s (s.linesAfter c) f := by
  cases c with
  | pinResetRelease => exact absurd rfl notRelease
  | encoderStep direction =>
    refine ⟨s.effect (.encoderStep direction), ?_⟩
    cases direction <;> rfl
  | illegalTransition => exact ⟨s.effect .illegalTransition, rfl⟩
  | entryReadDone result batch => exact ⟨s.effect (.entryReadDone result batch), rfl⟩
  | markActiveEdge =>
    by_cases unmoved : s.pins.mark = s.tracker.edgeInUse.level
    · refine ⟨id, (if_pos unmoved).trans (event_eq_pinEvent ?_ id)⟩
      rw [State.linesAfter, ← unmoved]
    · exact ⟨_, if_neg unmoved⟩
  | markInactiveEdge =>
    by_cases moved : s.pins.mark = s.tracker.edgeInUse.level
    · exact ⟨_, if_pos moved⟩
    · refine ⟨id, (if_neg moved).trans (event_eq_pinEvent ?_ id)⟩
      rw [State.linesAfter, ← Bool.eq_not.mpr moved]
  | headPresentActive =>
    by_cases unmoved : s.pins.headPresent = true
    · refine ⟨id, (if_pos unmoved).trans (event_eq_pinEvent ?_ id)⟩
      rw [State.linesAfter, ← unmoved]
    · exact ⟨_, if_neg unmoved⟩
  | headPresentInactive =>
    by_cases moved : s.pins.headPresent = true
    · exact ⟨_, if_pos moved⟩
    · refine ⟨id, (if_neg moved).trans (event_eq_pinEvent ?_ id)⟩
      rw [State.linesAfter, ← Bool.eq_false_iff.mpr moved]
  | _ => exact ⟨_, rfl⟩

theorem exec_held (active : s.pins.resetActive = true) {c : Instr} (notRelease : c ≠ .pinResetRelease) :
    exec c s = .next { s with pins := s.linesAfter c, outs := Outputs.none } := by
  obtain ⟨f, follows⟩ := exec_eq_pinEvent_linesAfter (s := s) notRelease
  rw [follows, pinEvent_held ((linesAfter_resetActive c).trans active)]

end

/-- Settles O5: both resets by their values, the bus by the transaction in progress, and RESET active by the lines
alone. -/
theorem resets : Obligations.Resets := by
  refine ⟨fun s live => ⟨?pin, ?soft⟩, fun p => ⟨fun idle => ?idle, fun t busy => ?busy⟩,
    ⟨fun s active => ⟨active, fun c notRelease => ?held, ?release⟩, fun s live => ?released⟩⟩
  case pin => exact event_live live State.pinReset
  case soft =>
    rw [← clearPulses_eq]
    exact event_live live State.softReset
  case idle => simp only [Port.busAtReset, idle, Option.map_none, Option.getD_none]
  case busy =>
    have bus : p.busAtReset = t.busAtReset := by
      simp only [Port.busAtReset, busy, Option.map_some, Option.getD_some]
    rw [bus]
    exact ⟨transaction_busAtReset_write, transaction_busAtReset_locked, transaction_busAtReset_read⟩
  case held => exact exec_held active notRelease
  case release => exact congrArg Host.Outcome.next (if_pos active)
  case released => exact congrArg Host.Outcome.next (if_neg (by simp [live]))

end Sys2Proof.Machine

/-! ## O54: the end of a drain -/

namespace Sys2Proof.Machine

section
variable {s : State}

theorem taking_iff {stage : LookStage} : stage.taking = true ↔ ∃ linked header, stage = .exchange linked header := by
  cases stage <;> simp [LookStage.taking]

/-- The four conditions under which a drain ends (R162). -/
theorem quietEngine_iff : s.quietEngine = true ↔ s.slots.slot0 = none ∧ s.slots.slot1 = none ∧
    (∀ linked header, s.walker.stage ≠ .exchange linked header) ∧ s.writer.list = [] ∧
    s.port.outstanding .walker = false := by
  have noTake : s.walker.stage.taking = false ↔ ∀ linked header, s.walker.stage ≠ .exchange linked header := by
    rw [← Bool.not_eq_true, taking_iff]
    simp only [not_exists]
  rw [← noTake]
  simp [State.quietEngine, and_assoc]

/-- The drained engine as it enters STOPPED, the head still as it was. -/
def State.stopping (s : State) : State := { s with
  ctl := { s.ctl with engine := .stopped }
  walker := { s.walker with state := .idle, stage := .none }
  tracker := s.tracker.forget
  firing := s.firing.rest }

theorem enterStopped_eq (free0 : s.slots.slot0 = none) (free1 : s.slots.slot1 = none) :
    s.enterStopped = { s.stopping with
      ctl := { s.ctl with engine := .stopped, attn := s.ctl.attn ||| 0x20#8 }
      head := s.stopping.headOff.head
      outs := { s.outs with clr := s.outs.clr + (if s.head.shift = .idle then 0 else 1) + 1 }
      free := s.stopping.headOff.free } := by
  have noJob (x : SlotId) : s.stopping.job x = none := by
    cases x
    · exact free0
    · exact free1
  have entered : s.enterStopped = s.stopping.headOff.raise .stopped := rfl
  rw [entered, headOff_eq _ noJob]
  rfl

end

/-- Settles O54: the step is made under the four conditions and enters STOPPED, and without one of them it is not. -/
theorem drainEnds : Obligations.DrainEnds := by
  refine fun s live => ⟨fun draining free0 free1 noTake noTask noRead => ?ends, fun missing => ?stays⟩
  case ends =>
    have can : s.quiet.tryDrainEnd = some s.quiet.enterStopped :=
      if_pos ⟨draining, quietEngine_iff.mpr ⟨free0, free1, noTake, noTask, noRead⟩⟩
    obtain ⟨off, idle, warmup, idleTimer, period, inactive, -, settings⟩ := headOff_head s.quiet.stopping
    refine ⟨_, event_makes live (step := State.tryDrainEnd) can, ?_⟩
    rw [enterStopped_eq (s := s.quiet) free0 free1]
    refine ⟨rfl, rfl, rfl, rfl, off, idle, warmup, idleTimer, period, inactive, settings, ?outs, rfl, rfl, rfl, rfl,
      rfl⟩
    by_cases noShift : s.head.shift = .idle <;> simp [noShift, Outputs.none]
  case stays =>
    refine event_stays live (step := State.tryDrainEnd) (if_neg ?_)
    rintro ⟨draining, quiet⟩
    obtain ⟨free0, free1, noTake, noTask, noRead⟩ := quietEngine_iff.mp quiet
    rcases missing with ⟨notDraining, notAbandoning⟩ | held0 | held1 | ⟨linked, header, take⟩ | task | read
    · exact draining.elim notDraining notAbandoning
    · exact held0 free0
    · exact held1 free1
    · exact noTake linked header take
    · exact task noTask
    · cases read.symm.trans noRead

end Sys2Proof.Machine

/-! ## The own steps of a block with nothing to print, and O6: START -/

namespace Sys2Proof.Machine

/-! ### Which own steps are left (log 1, log 24) -/

/-- No item is queued, no trigger is due and the builder is FREE. -/
structure State.Quiescent (s : State) : Prop where
  queue : s.queue = []
  noTrigger : ¬(s.firing.print = .into ∧ s.firing.divider = some 0)
  builder : s.builder.state = .free

/-- Then the firing section and the builder have no step to make. -/
theorem ownStep_quiescent {s : State} (h : s.Quiescent) : s.ownStep = s.tryCompletions.or (s.tryDrainEnd.or
    (s.tryLook.or (s.tryWriter.or (s.tryWant.or s.tryGrant)))) := by
  have head : s.tryHead = none := tryHead_waits (.inl h.queue)
  have divider : s.tryDivider = none := if_neg h.noTrigger
  have held : s.tryHeld = none := tryHeld_idle (by simp [h.builder])
  have stage : s.tryStage = none := tryStage_idle (by simp [h.builder])
  have walk : s.tryWalk = none := by simp [State.tryWalk, h.builder]
  have free : s.tryFree = none := by simp [State.tryFree, State.freeStartReady, h.queue]
  simp only [State.ownStep, head, divider, held, stage, walk, free, Option.none_or]

theorem tryCompletions_noJob {s : State} (noJob : ∀ x, s.job x = none) : s.tryCompletions = none := by
  simp [State.tryCompletions, State.tryCompletion, completionReady_free (noJob _)]

/-- The port and the read the builder waits to request: what the steps towards a transaction change. -/
def State.withRequests (s : State) (port : Port) (want : Option Transaction) : State :=
  { s with port := port, builder := { s.builder with want := want } }

/-- The steps of the writer, of a waiting read and of the arbiter change nothing else. -/
theorem requestStep_eq {s t : State} (e : s.tryWriter.or (s.tryWant.or s.tryGrant) = some t) :
    ∃ port want, t = s.withRequests port want := by
  simp only [Option.or_eq_some_iff] at e
  rcases e with write | ⟨-, want | ⟨-, grant⟩⟩
  · unfold State.tryWriter at write
    split at write
    · cases write
    · obtain ⟨_, -, rfl⟩ := Option.map_eq_some_iff.mp write
      exact ⟨_, s.builder.want, rfl⟩
  · unfold State.tryWant at want
    split at want
    · cases want
    · obtain ⟨_, -, rfl⟩ := Option.map_eq_some_iff.mp want
      exact ⟨_, none, rfl⟩
  · unfold State.tryGrant at grant
    split at grant
    · cases grant
    · obtain ⟨_, -, rfl⟩ := Option.map_eq_some_iff.mp grant
      exact ⟨_, s.builder.want, rfl⟩

theorem State.Quiescent.withRequests {s : State} (h : s.Quiescent) (port : Port) (want : Option Transaction) :
    (s.withRequests port want).Quiescent := ⟨h.queue, h.noTrigger, h.builder⟩

/-- With no job held the queue is empty and the builder FREE. -/
theorem quiescent_of_noJob {s : State} (linked : s.Linked) (free0 : s.slots.slot0 = none) (free1 : s.slots.slot1 = none)
    (noTrigger : ¬(s.firing.print = .into ∧ s.firing.divider = some 0)) : s.Quiescent := by
  obtain ⟨queue, noBuild, -, -⟩ := empty_of_no_jobs linked free0 free1
  exact ⟨queue, noTrigger, (linked.free noBuild).1⟩

/-! ### The first look (R128, R160) -/

/-- The walker stands at a look that keeps it until a transaction ends. -/
structure State.FirstLook (s : State) (standing : Walker) : Prop where
  quiescent : s.Quiescent
  noJob : ∀ x, s.job x = none
  running : s.ctl.engine = .running
  walker : s.walker = standing
  notOwed : s.walker.lookOwed = false

theorem firstLook_ownStep {s t : State} {standing : Walker} (h : s.FirstLook standing) (own : s.ownStep = some t) :
    t.FirstLook standing := by
  have noDrain : s.tryDrainEnd = none := if_neg (by simp [h.running])
  have noLook : s.tryLook = none := if_neg fun ready => by
    obtain ⟨owed, -⟩ := lookReady_iff.mp ready
    cases owed.symm.trans h.notOwed
  rw [ownStep_quiescent h.quiescent, tryCompletions_noJob h.noJob, noDrain, noLook] at own
  obtain ⟨port, want, rfl⟩ := requestStep_eq own
  exact ⟨h.quiescent.withRequests port want, h.noJob, h.running, h.walker, h.notOwed⟩

/-- A look that is owed in RUNNING, with nothing held and nothing to release, begins and stands (R128). -/
theorem rest_beginsLook {s : State} (quiescent : s.Quiescent) (noJob : ∀ x, s.job x = none)
    (running : s.ctl.engine = .running) (ready : s.lookReady = true) : s.rest.walker = s.beginLook.walker := by
  have noDrain : s.tryDrainEnd = none := if_neg (by simp [running])
  have begins : s.tryLook = some s.beginLook := if_pos ready
  have own : s.ownStep = some s.beginLook := by
    rw [ownStep_quiescent quiescent, tryCompletions_noJob noJob, noDrain, begins]
    rfl
  have stands : s.beginLook.FirstLook s.beginLook.walker :=
    ⟨⟨quiescent.queue, quiescent.noTrigger, quiescent.builder⟩, noJob, running, rfl, rfl⟩
  rw [rest_of_ownStep own]
  exact (restFor_keeps (P := (State.FirstLook · _)) (fun _ _ => firstLook_ownStep) 63 _ stands).walker

/-! ### The head is powered (R107) -/

section
variable {s : State}

theorem powerHead_absent (absent : s.pins.headPresent = false) : s.powerHead = (s.setHead .lost).raise .head :=
  if_neg (by simp [absent])

theorem powerHead_present (present : s.pins.headPresent = true) : s.powerHead = s.beginWarmup := if_pos present

theorem powerHead_engine : s.powerHead.ctl.engine = s.ctl.engine ∧ s.powerHead.ctl.refused = s.ctl.refused := by
  unfold State.powerHead State.beginWarmup
  split
  · rw [enterReady_eq]
    split <;> exact ⟨rfl, rfl⟩
  · exact ⟨rfl, rfl⟩

/-- START in STOPPED, before the block's own steps (R160). -/
def State.startTaken (s : State) : State := ((s.quiet.accept.setEngine .running).powerHead).oweLook

end

/-- The engine and the head after START, through the own steps: no drain ends in RUNNING. -/
theorem unstopped_startTaken (s : State) : s.startTaken.Unstopped s.startTaken.rest := by
  have running : s.startTaken.ctl.engine = .running := powerHead_engine.1
  exact unstopped_rest (.inl (by simp [running]))

/-- The first look begins when the walker is not left in one and nothing waits to be written. -/
theorem startTaken_looks {s : State} (stopped : s.ctl.engine = .stopped) (linked : s.Linked)
    (notLooking : s.walker.state ≠ .looking) (noTask : s.writer.list = []) :
    s.startTaken.rest.walker = s.startTaken.beginLook.walker := by
  obtain ⟨-, -, free0, free1, out, -, -⟩ := linked.resting (by rw [stopped]; rfl)
  have idle : s.Quiescent := quiescent_of_noJob linked free0 free1 (by simp [out])
  have quiescent : s.startTaken.Quiescent :=
    ⟨by simpa [State.startTaken] using idle.queue, by simp [State.startTaken, out],
      by simpa [State.startTaken] using idle.builder⟩
  have slots : s.startTaken.slots = s.slots := by simp [State.startTaken]
  have noJob (x : SlotId) : s.startTaken.job x = none := by
    rw [job_congr slots]
    cases x
    · exact free0
    · exact free1
  have running : s.startTaken.ctl.engine = .running := powerHead_engine.1
  refine rest_beginsLook quiescent noJob running (lookReady_iff.mpr ⟨rfl, running, quiescent.builder, ?_, ?_, ?_⟩)
  · exact .inl (slots ▸ free0)
  · simpa [State.startTaken] using notLooking
  · simp [State.startTaken, noTask]

/-- Settles O6: START in STOPPED by the state it enters, which the own steps keep but for the look that begins; START in
DRAINING owes a look. -/
theorem startEntersRunning : Obligations.StartEntersRunning := by
  refine ⟨fun s live stopped => ?stopped, fun s live draining => ?draining⟩
  case stopped =>
    obtain ⟨ctl, head, warmup, -, -⟩ := unstopped_startTaken s
    obtain ⟨engine, refused⟩ := powerHead_engine (s := s.quiet.accept.setEngine .running)
    refine ⟨s.startTaken.rest, ?_, ctl ▸ engine, ctl ▸ refused, ?anchor, fun absent => ?absent,
      fun present timed => ?timed, fun present noTime => ?atOnce, fun linked notLooking noTask => ?looks⟩
    · exact (event_live live State.doStart).trans
        (congrArg Host.Outcome.next (doStart_stopped (s := s.quiet) stopped))
    case anchor =>
      rw [(kept_rest s.startTaken).anchor]
      simp [State.startTaken]
    case absent =>
      rw [head, ctl, State.startTaken, powerHead_absent (by exact absent)]
      exact ⟨rfl, rfl⟩
    case timed =>
      rw [head, warmup, ctl, State.startTaken, powerHead_present (by exact present), beginWarmup_timed (by exact timed)]
      exact ⟨rfl, rfl, rfl⟩
    case atOnce =>
      rw [head, ctl, State.startTaken, powerHead_present (by exact present), beginWarmup_atOnce (by exact noTime),
        enterReady_eq]
      exact ⟨rfl, rfl⟩
    case looks =>
      rw [startTaken_looks stopped linked notLooking noTask]
      exact ⟨rfl, rfl, rfl⟩
  case draining =>
    exact (event_live live State.doStart).trans
      (congrArg Host.Outcome.next (doStart_draining (s := s.quiet) draining))

end Sys2Proof.Machine

/-! ## O7: STOP -/

namespace Sys2Proof.Machine

/-- STOP in RUNNING, before the block's own steps (R161). -/
def State.stopTaken (s : State) : State := (s.quiet.accept.setEngine .draining).ceaseLooking

theorem exec_stop {s : State} (live : s.pins.resetActive = false) (running : s.ctl.engine = .running) :
    exec .stop s = .next s.stopTaken.rest :=
  (event_live live State.doStop).trans (congrArg Host.Outcome.next (doStop_running (s := s.quiet) running))

/-! ### The look in progress, by its stage (R135, R161) -/

section
variable {s : State}

theorem ceaseLooking_none (stage : s.walker.stage = .none) : s.ceaseLooking = { s with
    walker := { s.walker with state := .idle, lookOwed := false, pollTimer := .stopped } } := by
  simp [State.ceaseLooking, Walker.endLook, LookStage.reads, stage]

theorem ceaseLooking_releaseWait (stage : s.walker.stage = .releaseWait) : s.ceaseLooking = { s with
    walker := { s.walker with state := .idle, stage := .none, lookOwed := false, pollTimer := .stopped } } := by
  simp [State.ceaseLooking, Walker.endLook, LookStage.reads, stage]

theorem ceaseLooking_exchange {linked : Word} {header : Header} (stage : s.walker.stage = .exchange linked header) :
    s.ceaseLooking = { s with walker := { s.walker with lookOwed := false, pollTimer := .stopped } } := by
  simp [State.ceaseLooking, Walker.endLook, LookStage.reads, stage]

theorem ceaseLooking_reads (reads : s.walker.stage.reads = true) : s.ceaseLooking = { s with
    port := s.port.disown .walker
    walker := { s.walker with stage := .discarding, lookOwed := false, pollTimer := .stopped } } := by
  have left : s.walker.endLook = { s.walker with stage := .discarding } := by
    cases stage : s.walker.stage <;> simp_all [Walker.endLook, LookStage.reads]
  simp [State.ceaseLooking, reads, left]

end

/-! ### Nothing left to drain (R162) -/

theorem unstopped_restFor {s : State} (notEnding : s.NotEnding) (n : Nat) : s.Unstopped (State.restFor n s) := by
  have both := restFor_keeps (P := fun t => s.Unstopped t ∧ t.NotEnding)
    (fun _ _ ⟨unstopped, running⟩ own =>
      have stays := unstopped_ownStep running own
      ⟨unstopped.trans stays, running.kept (kept_ownStep own) stays.ctl⟩) n s ⟨.refl s, notEnding⟩
  exact both.1

/-- DRAINING or ABANDONING under the conditions of R162. -/
def State.Drained (s : State) : Prop :=
  (s.ctl.engine = .draining ∨ s.ctl.engine = .abandoning) ∧ s.quietEngine = true

section
variable {s : State} (drained : s.Drained)
include drained

theorem State.Drained.free : s.slots.slot0 = none ∧ s.slots.slot1 = none := by
  obtain ⟨free0, free1, -⟩ := quietEngine_iff.mp drained.2
  exact ⟨free0, free1⟩

theorem State.Drained.noJob (x : SlotId) : s.job x = none := by
  cases x
  · exact drained.free.1
  · exact drained.free.2

/-- With no trigger due the end of the drain is the next own step. -/
theorem State.Drained.ownStep_stops (quiescent : s.Quiescent) : s.ownStep = some s.enterStopped := by
  have stops : s.tryDrainEnd = some s.enterStopped := if_pos drained
  rw [ownStep_quiescent quiescent, tryCompletions_noJob drained.noJob, stops]
  rfl

/-- The engine is STOPPED after it, and the flags stay through the own steps that follow. -/
theorem State.Drained.restFor_stops (quiescent : s.Quiescent) (n : Nat) :
    (State.restFor (n + 1) s).ctl = { s.ctl with engine := .stopped, attn := s.ctl.attn ||| 0x20#8 } := by
  have entered : s.enterStopped.ctl = { s.ctl with engine := .stopped, attn := s.ctl.attn ||| 0x20#8 } := by
    rw [enterStopped_eq drained.free.1 drained.free.2]
  rw [State.restFor, drained.ownStep_stops quiescent, ← entered]
  exact (unstopped_restFor (.inl (by simp [entered])) n).ctl

/-- A trigger that is due comes first, and finds the end of the stream (R80). -/
theorem State.Drained.rest_stops (linked : s.Linked) :
    s.rest.ctl = { s.ctl with engine := .stopped, attn := s.ctl.attn ||| 0x20#8 } := by
  obtain ⟨queue, noBuild, noShift, -⟩ := empty_of_no_jobs linked drained.free.1 drained.free.2
  by_cases due : s.firing.print = .into ∧ s.firing.divider = some 0
  · have noRow : s.rowShifting = false := by
      rw [Bool.eq_false_iff, ne_eq, rowShifting_iff]
      simp [noShift]
    have built : s.buildingPrint = false := by simp [State.buildingPrint, noBuild]
    have expires : s.dividerExpires = s.printOut :=
      dividerExpires_out (rowTrigger_streamEnd noRow queue built) (printOut_print s)
    have own : s.ownStep = some s.printOut :=
      expires ▸ ownStep_divider (tryHead_waits (.inl queue)) due.1 due.2
    have drainedOut : s.printOut.Drained := drained
    rw [rest_of_ownStep own]
    exact drainedOut.restFor_stops ⟨queue, by simp, (linked.free noBuild).1⟩ 62
  · exact drained.restFor_stops (quiescent_of_noJob linked drained.free.1 drained.free.2 due) 63

end

theorem linked_stopTaken {s : State} (linked : s.Linked) : s.stopTaken.Linked :=
  linked_ceaseLooking (linked_ctl (linked_quiet linked) (by simp [EngineState.resting]))

/-- Settles O7: the look in progress by its stage, and with nothing left to drain the end of the drain. -/
theorem stopDrains : Obligations.StopDrains := by
  intro s live running
  rw [exec_stop live running]
  refine ⟨fun stage => ?none, fun stage => ?releaseWait, fun linked header stage => ?exchange, fun reads => ?reads,
    fun linked free0 free1 stage noTask noRead => ?atOnce⟩
  case none => rw [State.stopTaken, ceaseLooking_none (by exact stage)]; rfl
  case releaseWait => rw [State.stopTaken, ceaseLooking_releaseWait (by exact stage)]; rfl
  case exchange => rw [State.stopTaken, ceaseLooking_exchange (by exact stage)]; rfl
  case reads => rw [State.stopTaken, ceaseLooking_reads (by exact reads)]; rfl
  case atOnce =>
    have left : s.stopTaken = _ := ceaseLooking_none (by exact stage)
    have drained : s.stopTaken.Drained := by
      refine ⟨.inl rfl, quietEngine_iff.mpr ?_⟩
      rw [left]
      exact ⟨free0, free1, by simp [stage], noTask, noRead⟩
    refine ⟨_, rfl, ?_⟩
    rw [drained.rest_stops (linked_stopTaken linked)]
    exact ⟨rfl, rfl⟩

end Sys2Proof.Machine

/-! ## O8: HALT -/

namespace Sys2Proof.Machine

/-! ### The jobs at a HALT (R163) -/

/-- What HALT makes of a held job: HALTED, unless it carries a fault or is COMPLETING. -/
structure Job.Halted (j j' : Job) : Prop where
  record : j'.record = j.record
  counts : j'.counts = j.counts
  fault : j'.fault = if j.fault = none ∧ j.phase ≠ .completing then some (.halted, 0) else j.fault
  notWorking : j'.fault = none → j'.phase = .completing

section
variable {s : State} {x : SlotId}

theorem haltJob_halts {j : Job} (held : s.job x = some j) : ∃ j', (s.haltJob x).job x = some j' ∧ j.Halted j' := by
  by_cases working : j.fault = none ∧ j.phase ≠ .completing
  · have taken := takeFault_spec (faultable_of held working.1 working.2) .halted 0
    obtain ⟨k, heldNow, -, -, after⟩ := taken.job
    cases held.symm.trans heldNow
    exact ⟨_, after, rfl, rfl, (if_pos working).symm, fun noFault => by cases noFault⟩
  · have spared : s.faultable x = false := by
      rw [Bool.eq_false_iff]
      simpa [State.faultable, held] using working
    refine ⟨j, by rw [State.haltJob, takeFault_no spared, held], rfl, rfl, (if_neg working).symm, fun noFault => ?_⟩
    exact not_not.mp fun other => working ⟨noFault, other⟩

theorem haltJob_other {y : SlotId} (other : y ≠ x) : (s.haltJob x).job y = s.job y := by
  cases faultable : s.faultable x with
  | true => exact (takeFault_spec faultable .halted 0).other y other
  | false => rw [State.haltJob, takeFault_no faultable]

theorem haltJob_free (free : s.job x = none) : (s.haltJob x).job x = none := by
  rw [State.haltJob, takeFault_no (by simp [State.faultable, free]), free]

theorem haltJob_firing (out : s.firing.print = .out) : (s.haltJob x).firing.print = .out := by
  rcases takeFault_firing s x .halted 0 with same | printOut
  · rw [State.haltJob, same, out]
  · rw [State.haltJob, printOut, printOut_print]

end

/-- Both jobs given HALTED, one after the other (R163). -/
def State.haltJobs (s : State) : State := (s.haltJob .slot0).haltJob .slot1

section
variable {s : State} {x : SlotId}

theorem haltJobs_halts {j : Job} (held : s.job x = some j) : ∃ j', s.haltJobs.job x = some j' ∧ j.Halted j' := by
  cases x with
  | slot0 =>
    have later : s.haltJobs.job .slot0 = (s.haltJob .slot0).job .slot0 := haltJob_other (by decide)
    exact later ▸ haltJob_halts held
  | slot1 =>
    have earlier : (s.haltJob .slot0).job .slot1 = s.job .slot1 := haltJob_other (by decide)
    exact haltJob_halts (earlier.trans held)

theorem haltJobs_free (free : s.job x = none) : s.haltJobs.job x = none := by
  cases x with
  | slot0 =>
    have later : s.haltJobs.job .slot0 = (s.haltJob .slot0).job .slot0 := haltJob_other (by decide)
    exact later.trans (haltJob_free free)
  | slot1 =>
    have earlier : (s.haltJob .slot0).job .slot1 = s.job .slot1 := haltJob_other (by decide)
    exact haltJob_free (earlier.trans free)

theorem haltJobs_firing (out : s.firing.print = .out) : s.haltJobs.firing.print = .out :=
  haltJob_firing (haltJob_firing out)

end

/-! ### The entry to ABANDONING (R112, R116, R163) -/

section
variable (s : State)

/-- The engine ABANDONING, its shift aborted, tickle and its timer stopped and the print state OUT. -/
def State.cutShort (s : State) : State :=
  let aborted := ((s.setEngine .abandoning).abortShift).tickleOff
  ({ aborted with head := { aborted.head with idleTimer := .stopped } } : State).printOut

theorem enterAbandoning_eq : s.enterAbandoning = s.cutShort.haltJobs.ceaseLooking := rfl

theorem abortShift_warmupTimer : s.abortShift.head.warmupTimer = s.head.warmupTimer := by
  cases shift : s.head.shift <;> simp [State.abortShift, shift, State.stopShift]

/-- The head at the entry: its state and its warm-up are kept. -/
theorem enterAbandoning_head : s.enterAbandoning.head.shift = .idle ∧ s.enterAbandoning.head.tickleActive = false ∧
    s.enterAbandoning.head.idleTimer = .stopped ∧ s.enterAbandoning.head.periodTimer = .stopped ∧
    s.enterAbandoning.head.state = s.head.state ∧ s.enterAbandoning.head.warmupTimer = s.head.warmupTimer := by
  have cut : s.enterAbandoning.head = s.cutShort.head := by
    simp [enterAbandoning_eq, State.ceaseLooking, State.haltJobs]
  rw [cut]
  exact ⟨abortShift_idle _, rfl, rfl, rfl, abortShift_state _, abortShift_warmupTimer _⟩

theorem enterAbandoning_outs : s.enterAbandoning.outs =
    { s.outs with clr := s.outs.clr + if s.head.shift = .idle then 0 else 1 } := by
  have cut : s.enterAbandoning.outs = s.cutShort.outs := by
    simp [enterAbandoning_eq, State.ceaseLooking, State.haltJobs]
  rw [cut]
  exact (abortShift_link (s.setEngine .abandoning)).2.2

theorem enterAbandoning_ctl : s.enterAbandoning.ctl = { s.ctl with engine := .abandoning } := by
  simp [enterAbandoning_eq, State.ceaseLooking, State.haltJobs, State.cutShort, State.setEngine]

theorem enterAbandoning_print : s.enterAbandoning.firing.print = .out := haltJobs_firing (printOut_print _)

theorem enterAbandoning_job (x : SlotId) : (s.job x = none → s.enterAbandoning.job x = none) ∧
    ∀ j, s.job x = some j → ∃ j', s.enterAbandoning.job x = some j' ∧ j.Halted j' := by
  have cut : s.cutShort.job x = _ := abortShift_job (s.setEngine .abandoning) x
  have same : (s.setEngine .abandoning).job x = s.job x := rfl
  rw [same] at cut
  refine ⟨fun free => haltJobs_free (cut.trans (by rw [free]; rfl)), fun j held => ?_⟩
  obtain ⟨j', after, halted⟩ := haltJobs_halts (cut.trans (by rw [held]; rfl))
  exact ⟨j', after, halted.record, halted.counts, halted.fault, halted.notWorking⟩

end

theorem enterAbandoning_notWorking (s : State) (x : SlotId) : ¬s.enterAbandoning.working x := by
  rintro ⟨k, heldNow, notCompleting, noFault⟩
  obtain ⟨stays, halts⟩ := enterAbandoning_job s x
  cases held : s.job x with
  | none => cases heldNow.symm.trans (stays held)
  | some j =>
    obtain ⟨j', after, halted⟩ := halts j held
    cases heldNow.symm.trans after
    exact notCompleting (halted.notWorking noFault)

/-- So no item and no build is left, since each is of a job that works. -/
theorem enterAbandoning_empty {s : State} (linked : s.Linked) : s.enterAbandoning.queue = [] ∧
    s.enterAbandoning.builder.job = none ∧ s.enterAbandoning.builder.state = .free := by
  have after := linked_enterAbandoning linked
  have noBuild : s.enterAbandoning.builder.job = none :=
    Option.eq_none_iff_forall_ne_some.mpr fun x building =>
      enterAbandoning_notWorking s x (after.building x building).1
  exact ⟨List.eq_nil_iff_forall_not_mem.mpr fun item queued =>
    enterAbandoning_notWorking s _ (after.items item queued), noBuild, (after.free noBuild).1⟩

/-! ### The own steps of an abandoned block -/

/-- A job apart from its phase. -/
def Job.phaseless (j : Job) : Job := { j with phase := .completing }

/-- The jobs of a state as far as the beginning of completions leaves them alone. -/
def State.phaseless (s : State) (x : SlotId) : Option Job := (s.job x).map Job.phaseless

theorem phaseless_completing (s : State) (y x : SlotId) : (s.completing y).phaseless x = s.phaseless x := by
  rw [State.phaseless, State.completing, job_mapJob, State.phaseless]
  split
  · next same =>
    subst same
    cases s.job x <;> rfl
  · rfl

theorem phaseless_congr {s t : State} (slots : t.slots = s.slots) (x : SlotId) : t.phaseless x = s.phaseless x := by
  rw [State.phaseless, State.phaseless, job_congr slots]

/-- Completions that begin leave all but the phases, the write list and the free values alone. -/
structure State.CompletionsBegun (s t : State) : Prop where
  ctl : t.ctl = s.ctl
  walker : t.walker = s.walker
  builder : t.builder = s.builder
  queue : t.queue = s.queue
  firing : t.firing = s.firing
  head : t.head = s.head
  outs : t.outs = s.outs
  jobs : ∀ x, t.phaseless x = s.phaseless x

theorem completionsBegun_one (s : State) (y : SlotId) : s.CompletionsBegun (s.beginCompletion y) where
  ctl := by simp
  walker := by simp
  builder := by simp
  queue := by simp
  firing := by simp
  head := by simp
  outs := by simp
  jobs x := phaseless_completing s y x

theorem completionsBegun_both (s : State) : s.CompletionsBegun s.beginBoth where
  ctl := by simp
  walker := by simp
  builder := by simp
  queue := by simp
  firing := by simp
  head := by simp
  outs := by simp
  jobs x := by
    rw [phaseless_congr (s := (s.completing .slot0).completing .slot1) (by simp [State.beginBoth]),
      phaseless_completing, phaseless_completing]

theorem completionsBegun_of_try {s t : State} (e : s.tryCompletions = some t) : s.CompletionsBegun t := by
  have one {y : SlotId} (begins : s.tryCompletion y = some t) : s.CompletionsBegun t := by
    obtain ⟨-, rfl⟩ : _ ∧ s.beginCompletion y = t := by simpa [State.tryCompletion] using begins
    exact completionsBegun_one s y
  unfold State.tryCompletions at e
  split at e
  · cases e
    exact completionsBegun_both s
  · rcases Option.or_eq_some_iff.mp e with first | ⟨-, second⟩
    · exact one first
    · exact one second

/-- What the own steps keep of a block that has been abandoned in the state `u`, the end of the abandon among them. -/
structure State.Abandoned (u t : State) : Prop where
  queue : t.queue = []
  print : t.firing.print = .out
  builder : t.builder.state = .free
  noBuild : t.builder.job = none
  shift : t.head.shift = .idle
  tickle : t.head.tickleActive = false
  idleTimer : t.head.idleTimer = .stopped
  periodTimer : t.head.periodTimer = .stopped
  notOwed : t.walker.lookOwed = false
  pollTimer : t.walker.pollTimer = .stopped
  jobs : ∀ x, t.phaseless x = u.phaseless x
  /-- The head is kept until the end, which gives one pulse for its entry to OFF. -/
  engine : (t.ctl.engine = .abandoning ∧ t.head.state = u.head.state ∧ t.head.warmupTimer = u.head.warmupTimer ∧
    t.outs.clr = u.outs.clr) ∨ (t.ctl.engine = .stopped ∧ t.outs.clr = u.outs.clr + 1)

section
variable {u s t : State} (h : u.Abandoned s)
include h

theorem State.Abandoned.quiescent : s.Quiescent := ⟨h.queue, by simp [h.print], h.builder⟩

theorem State.Abandoned.completions (begun : s.CompletionsBegun t) : u.Abandoned t where
  queue := begun.queue.trans h.queue
  print := by rw [begun.firing, h.print]
  builder := by rw [begun.builder, h.builder]
  noBuild := by rw [begun.builder, h.noBuild]
  shift := by rw [begun.head, h.shift]
  tickle := by rw [begun.head, h.tickle]
  idleTimer := by rw [begun.head, h.idleTimer]
  periodTimer := by rw [begun.head, h.periodTimer]
  notOwed := by rw [begun.walker, h.notOwed]
  pollTimer := by rw [begun.walker, h.pollTimer]
  jobs x := (begun.jobs x).trans (h.jobs x)
  engine := by rw [begun.ctl, begun.head, begun.outs]; exact h.engine

theorem State.Abandoned.ends (drained : s.Drained) : u.Abandoned s.enterStopped := by
  obtain ⟨-, idle, -, idleTimer, period, inactive, -, -⟩ := headOff_head s.stopping
  have pulses : s.outs.clr = u.outs.clr := by
    rcases h.engine with ⟨-, -, -, same⟩ | ⟨stopped, -⟩
    · exact same
    · simp [State.Drained, stopped] at drained
  rw [enterStopped_eq drained.free.1 drained.free.2]
  exact ⟨h.queue, rfl, h.builder, h.noBuild, idle, inactive, idleTimer, period, h.notOwed, h.pollTimer,
    h.jobs, .inr ⟨rfl, by simp [h.shift, pulses]⟩⟩

theorem State.Abandoned.requests (port : Port) (want : Option Transaction) : u.Abandoned (s.withRequests port want) :=
  ⟨h.queue, h.print, h.builder, h.noBuild, h.shift, h.tickle, h.idleTimer, h.periodTimer, h.notOwed, h.pollTimer,
    h.jobs, h.engine⟩

theorem State.Abandoned.ownStep (own : s.ownStep = some t) : u.Abandoned t := by
  have noLook : s.tryLook = none := if_neg fun ready => by
    obtain ⟨owed, -⟩ := lookReady_iff.mp ready
    cases owed.symm.trans h.notOwed
  rw [ownStep_quiescent h.quiescent, noLook, Option.none_or, Option.or_eq_some_iff, Option.or_eq_some_iff] at own
  rcases own with completions | ⟨-, drain | ⟨-, request⟩⟩
  · exact h.completions (completionsBegun_of_try completions)
  · obtain ⟨drained, rfl⟩ : s.Drained ∧ s.enterStopped = t := by
      simpa [State.tryDrainEnd, State.Drained] using drain
    exact h.ends drained
  · obtain ⟨port, want, rfl⟩ := requestStep_eq request
    exact h.requests port want

end

theorem abandoned_enterAbandoning {s : State} (linked : s.Linked) : s.enterAbandoning.Abandoned s.enterAbandoning := by
  obtain ⟨queue, noBuild, free⟩ := enterAbandoning_empty linked
  obtain ⟨shift, tickle, idleTimer, periodTimer, -, -⟩ := enterAbandoning_head s
  exact ⟨queue, enterAbandoning_print s, free, noBuild, shift, tickle, idleTimer, periodTimer, rfl, rfl, fun _ => rfl,
    .inl ⟨by rw [enterAbandoning_ctl], rfl, rfl, rfl⟩⟩

theorem abandoned_rest {u : State} (h : u.Abandoned u) : u.Abandoned u.rest :=
  restFor_keeps (P := u.Abandoned) (fun _ _ abandoned own => abandoned.ownStep own) restBound u h

section
variable {u t : State} (h : u.Abandoned t) {x : SlotId}
include h

theorem State.Abandoned.job_none (free : u.job x = none) : t.job x = none := by
  have same := h.jobs x
  rwa [State.phaseless, State.phaseless, free, Option.map_none, Option.map_eq_none_iff] at same

theorem State.Abandoned.job_some {j : Job} (held : u.job x = some j) :
    ∃ j', t.job x = some j' ∧ j'.record = j.record ∧ j'.counts = j.counts ∧ j'.fault = j.fault := by
  have same := h.jobs x
  rw [State.phaseless, State.phaseless, held, Option.map_some, Option.map_eq_some_iff] at same
  obtain ⟨j', heldNow, phaseless⟩ := same
  have record := congrArg Job.record phaseless
  have counts := congrArg Job.counts phaseless
  have fault := congrArg Job.fault phaseless
  exact ⟨j', heldNow, record, counts, fault⟩

end

theorem exec_halt {s : State} (live : s.pins.resetActive = false)
    (active : s.ctl.engine = .running ∨ s.ctl.engine = .draining) :
    exec .halt s = .next s.quiet.accept.enterAbandoning.rest :=
  (event_live live State.doHalt).trans (congrArg Host.Outcome.next (doHalt_acts (s := s.quiet) active))

/-- Settles O8: the entry to ABANDONING leaves nothing to build or print, and the own steps keep what it leaves. -/
theorem haltAbandons : Obligations.HaltAbandons := by
  intro s live active linked
  have entered : s.quiet.accept.Linked := linked_ctl (linked_quiet linked) id
  set u := s.quiet.accept.enterAbandoning with hu
  have h : u.Abandoned u.rest := abandoned_rest (abandoned_enterAbandoning entered)
  have kept := kept_rest u
  obtain ⟨-, -, -, -, state, warmup⟩ := enterAbandoning_head s.quiet.accept
  have outs := enterAbandoning_outs s.quiet.accept
  have pulses : u.outs.clr = if s.head.shift = .idle then 0 else 1 :=
    (congrArg Outputs.clr outs).trans (Nat.zero_add _)
  refine ⟨u.rest, exec_halt live active, h.engine.imp And.left And.left, ?refused, h.queue, h.noBuild, h.print, h.shift,
    h.tickle, h.idleTimer, h.periodTimer, h.notOwed, h.pollTimer, ?fire, ?clr, fun abandoning => ?head,
    fun x => ⟨fun free => ?free, fun j held => ?held⟩⟩
  case refused => rw [kept.refused, hu, enterAbandoning_ctl]; rfl
  case fire => rw [kept.fire, hu, outs]; rfl
  case clr =>
    rcases h.engine with ⟨abandoning, -, -, same⟩ | ⟨stopped, more⟩
    · simp [abandoning, same, pulses]
    · simp [stopped, more, pulses]
  case head =>
    rcases h.engine with ⟨-, stateKept, warmupKept, -⟩ | ⟨stopped, -⟩
    · exact ⟨stateKept.trans state, warmupKept.trans warmup⟩
    · cases abandoning.symm.trans stopped
  case free => exact h.job_none ((enterAbandoning_job s.quiet.accept x).1 free)
  case held =>
    obtain ⟨k, heldAfter, halted⟩ := (enterAbandoning_job s.quiet.accept x).2 j held
    obtain ⟨j', heldNow, record, counts, fault⟩ := h.job_some heldAfter
    exact ⟨j', heldNow, record.trans halted.record, counts.trans halted.counts, fault.trans halted.fault⟩

end Sys2Proof.Machine

/-! ## O31: the data lines -/

namespace Sys2Proof.Machine

/-! ### One clock for each pair of nozzles (R172) -/

theorem lineClocks_length : ∀ values : List (BitVec 2), (lineClocks values).length = values.length / 2
  | [] => rfl
  | [_] => by simp [lineClocks]
  | even :: odd :: rest => by
    simp only [lineClocks, List.length_cons, lineClocks_length rest]
    omega

theorem lineClocks_getElem? {even odd : BitVec 2} : ∀ {values : List (BitVec 2)} {pair : Nat},
    values[2 * pair]? = some even → values[2 * pair + 1]? = some odd → (lineClocks values)[pair]? = some (odd ++ even)
  | [], _, atEven, _ => by cases atEven
  | [_], _, _, atOdd => by cases atOdd
  | _ :: _ :: _, 0, atEven, atOdd => by
    cases atEven
    cases atOdd
    rfl
  | _ :: _ :: rest, pair + 1, atEven, atOdd => lineClocks_getElem? (values := rest) (pair := pair) atEven atOdd

/-! ### The 321 clocks of a shift: its kind, then the pairs (R172) -/

theorem shiftClocks_length {values : List (BitVec 2)} (nozzles : values.length = 640) (kind : BitVec 4) :
    (kind :: lineClocks values).length = 321 := by
  rw [List.length_cons, lineClocks_length, nozzles]

theorem shiftClocks_getElem? {values : List (BitVec 2)} {clock : Nat} {even odd : BitVec 2} (kind : BitVec 4)
    (after : 1 ≤ clock) (atEven : values[2 * (clock - 1)]? = some even)
    (atOdd : values[2 * (clock - 1) + 1]? = some odd) :
    (kind :: lineClocks values)[clock]? = some (odd ++ even) := by
  obtain ⟨pair, rfl⟩ := Nat.exists_eq_add_of_le' after
  exact lineClocks_getElem? atEven atOdd

/-- The value of a nozzle in a tickle shift (R119). -/
def tickleValue (named : Bool) : BitVec 2 := if named then 1#2 else 0#2

theorem tickleValue_eq (named : Bool) : tickleValue named = 0#1 ++ BitVec.ofBool named := by
  cases named <;> rfl

theorem tickle_lineData (pattern : List Bool) :
    (Shift.tickle pattern).lineData = 2#4 :: lineClocks (pattern.map tickleValue) := rfl

theorem tickleValues_getElem? {pattern : List Bool} {nozzle : Nat} {named : Bool} (h : pattern[nozzle]? = some named) :
    (pattern.map tickleValue)[nozzle]? = some (0#1 ++ BitVec.ofBool named) := by
  rw [List.getElem?_map, h, Option.map_some, tickleValue_eq]

/-! ### The lines between shifts (R172) -/

theorem clkLevel_idle {s : State} (idle : s.head.shift = .idle) : s.clkLevel = false := by
  rw [State.clkLevel, idle]

theorem datLevel_idle {s : State} (idle : s.head.shift = .idle) : s.datLevel = s.head.dat := by
  rw [State.datLevel, idle]

/-- Settles O31: the kind before the pairs, each pair by the two values it takes from the row, and no clock between
shifts. -/
theorem lineData : Obligations.LineData := by
  refine ⟨fun codes x substitutions lostDots nozzles => ⟨shiftClocks_length nozzles _, rfl, ?row⟩,
    fun pattern nozzles => ?tickle, fun s idle => ⟨clkLevel_idle idle, rfl, datLevel_idle idle⟩⟩
  case row => exact fun clock even odd after _ atEven atOdd => shiftClocks_getElem? _ after atEven atOdd
  case tickle =>
    rw [tickle_lineData]
    exact ⟨shiftClocks_length ((List.length_map _).trans nozzles) _, rfl, fun clock even odd after _ atEven atOdd =>
      shiftClocks_getElem? _ after (tickleValues_getElem? atEven) (tickleValues_getElem? atOdd)⟩

end Sys2Proof.Machine

/-! ## O1: a step and the queue of waiting commands -/

namespace Sys2Proof.Machine

theorem step_cons (c : Instr) (rest : List Instr) (s : State) :
    step { s with pending := c :: rest } = exec c { s with pending := rest } := rfl

theorem step_nil {s : State} (empty : s.pending = []) : step s = .next s := by
  unfold step
  rw [empty]

/-- Settles O1: the step by the queue, a front command or none. -/
theorem stepRunsFrontCommand : Obligations.StepRunsFrontCommand := ⟨step_cons, fun _ => step_nil⟩

end Sys2Proof.Machine

/-! ## O2: every command answers, and leaves the waiting commands alone

An answer is always a next state, since every command is an event or the release of RESET. What remains is that no
effect touches the waiting commands: each is made of operations that leave them alone, followed by the own steps. -/

namespace Sys2Proof.Machine

section
variable {s : State}

/-! ### The own steps that a command can name -/

@[simp] theorem rest_pending (s : State) : s.rest.pending = s.pending := (kept_rest s).pending

theorem orStay_pending {o : Option State} (made : ∀ t, o = some t → t.pending = s.pending) :
    (s.orStay o).pending = s.pending := by
  cases o with
  | none => rfl
  | some t => exact (rest_pending t).trans (made t rfl)

theorem tryDivider_pending {t : State} (e : s.tryDivider = some t) : t.pending = s.pending := by
  obtain ⟨-, rfl⟩ : _ ∧ s.dividerExpires = t := by simpa [State.tryDivider] using e
  simp

theorem tryHeld_pending {t : State} (e : s.tryHeld = some t) : t.pending = s.pending := by
  unfold State.tryHeld at e
  split at e
  · obtain ⟨-, made⟩ := Option.ite_none_right_eq_some.mp e
    cases made
    simp
  · cases e

theorem tryStage_pending {t : State} (e : s.tryStage = some t) : t.pending = s.pending := by
  unfold State.tryStage at e
  split at e
  · obtain ⟨-, made⟩ := Option.ite_none_right_eq_some.mp e
    cases made
    simp
  · cases e

theorem tryFree_pending {t : State} (e : s.tryFree = some t) : t.pending = s.pending := by
  obtain ⟨-, rfl⟩ : _ ∧ s.freeStarted = t := by simpa [State.tryFree] using e
  rfl

theorem tryEnd_pending {t : State} (e : s.tryEnd = some t) : t.pending = s.pending := by
  unfold State.tryEnd at e
  split at e
  · obtain ⟨-, made⟩ := Option.ite_none_left_eq_some.mp e
    cases made
    simp
  · cases e

theorem tryCompletion_pending {t : State} {x : SlotId} (e : s.tryCompletion x = some t) : t.pending = s.pending := by
  obtain ⟨-, rfl⟩ : _ ∧ s.beginCompletion x = t := by simpa [State.tryCompletion] using e
  simp

theorem tryDrainEnd_pending {t : State} (e : s.tryDrainEnd = some t) : t.pending = s.pending := by
  obtain ⟨-, rfl⟩ : _ ∧ s.enterStopped = t := by simpa [State.tryDrainEnd] using e
  simp

theorem tryLook_pending {t : State} (e : s.tryLook = some t) : t.pending = s.pending := by
  obtain ⟨-, rfl⟩ : _ ∧ s.beginLook = t := by simpa [State.tryLook] using e
  rfl

theorem tryGrant_pending {t : State} (e : s.tryGrant = some t) : t.pending = s.pending := by
  unfold State.tryGrant at e
  obtain ⟨-, granted⟩ := Option.ite_none_left_eq_some.mp e
  obtain ⟨_, -, rfl⟩ := Option.map_eq_some_iff.mp granted
  rfl

/-! ### Commands of the register window and the resets -/

theorem doStart_pending (s : State) : s.doStart.pending = s.pending := by
  unfold State.doStart
  split <;> simp

theorem doStop_pending (s : State) : s.doStop.pending = s.pending := by
  unfold State.doStop
  split <;> simp

theorem doHalt_pending (s : State) : s.doHalt.pending = s.pending := by
  unfold State.doHalt
  split <;> simp

theorem doSkip_pending (s : State) : s.doSkip.pending = s.pending := by
  unfold State.doSkip State.skipCounting
  repeat' split
  all_goals simp

theorem doLook_pending (s : State) : s.doLook.pending = s.pending := by
  unfold State.doLook
  split <;> simp

theorem resetTo_pending (s : State) (anchor attnEn pins clr) : (s.resetTo anchor attnEn pins clr).pending = s.pending :=
  rfl

theorem writeChain_pending (s : State) (v : Word) : (s.writeChain v).pending = s.pending := by
  unfold State.writeChain
  split <;> simp

theorem writeControl_pending (s : State) (v : Word) : (s.writeControl v).pending = s.pending := by
  unfold State.writeControl
  split
  · exact doStart_pending s
  · exact doStop_pending s
  · exact doHalt_pending s
  · exact doSkip_pending s
  · exact doLook_pending s
  · exact resetTo_pending ..
  · exact refuse_pending s

theorem writeRegister_pending (s : State) (offset : Word) (bytes : Nat) (v : Word) :
    (s.writeRegister offset bytes v).pending = s.pending := by
  unfold State.writeRegister
  split
  · rfl
  split
  · exact writeControl_pending s v
  · exact writeChain_pending s v
  · exact writeAttn_pending s v
  · exact writeAttnEn_pending s v
  · rfl

/-! ### Motion and the head -/

theorem encoderStepped_pending (s : State) (d : Direction) : (s.encoderStepped d).pending = s.pending := by
  unfold State.encoderStepped
  split <;> split <;> simp

theorem headLoss_pending (s : State) : s.headLoss.pending = s.pending := by
  unfold State.headLoss
  repeat' split
  all_goals simp

theorem fired_pending (s : State) (x : SlotId) (a b : Nat) : (s.fired x a b).pending = s.pending := by
  simp [State.fired]

/-! ### Transactions that end -/

theorem discard_pending (s : State) (r : Requester) : (s.discard r).pending = s.pending := by
  cases r <;> rfl

theorem endTransaction_pending (s : State) (k : TxKind) (bus : Transaction → BusOut)
    {act : Transaction → State → State} (acts : ∀ tx u, (act tx u).pending = u.pending) :
    (s.endTransaction k bus act).pending = s.pending := by
  unfold State.endTransaction
  split
  · rfl
  split
  · dsimp only
    split
    · exact (rest_pending _).trans (acts ..)
    · exact (rest_pending _).trans (discard_pending ..)
  · rfl

theorem endBuilderRead_pending (s : State) (k : TxKind) {act : State → State}
    (acts : ∀ u, (act u).pending = u.pending) : (s.endBuilderRead k act).pending = s.pending := by
  refine endTransaction_pending s k _ fun _ u => ?_
  split
  · exact acts _
  · rfl

theorem linkRead_pending (s : State) (r : WordResult) : (s.linkRead r).pending = s.pending := by
  unfold State.linkRead
  repeat' split
  all_goals simp

theorem stateRead_pending (s : State) (r : WordResult) : (s.stateRead r).pending = s.pending := by
  unfold State.stateRead
  repeat' split
  all_goals simp

theorem headerRead_pending (s : State) (r : ReadResult) : (s.headerRead r).pending = s.pending := by
  unfold State.headerRead
  repeat' split
  all_goals simp

theorem takeFaulted_pending (s : State) (x : SlotId) (record : Word) (h : Header) (code : FaultCode) :
    (s.takeFaulted x record h code).pending = s.pending := by
  simp [State.takeFaulted]

theorem takeValid_pending (s : State) (x : SlotId) (record : Word) (h : Header) :
    (s.takeValid x record h).pending = s.pending := rfl

theorem take_pending (s : State) (record : Word) (h : Header) : (s.take record h).pending = s.pending := by
  unfold State.take
  rw [endLookIdle_pending]
  split
  · exact moveAnchor_pending s record
  split
  · exact takeFaulted_pending ..
  split
  · exact takeFaulted_pending ..
  · exact takeValid_pending ..

theorem exchangeDone_pending (s : State) (r : WordResult) : (s.exchangeDone r).pending = s.pending := by
  unfold State.exchangeDone
  repeat' split
  all_goals simp [take_pending]

theorem resultWritten_pending (s : State) (t : Transaction) (r : WriteResult) :
    (s.resultWritten t r).pending = s.pending := by
  cases r <;> simp [State.resultWritten]

theorem completed_pending (s : State) (t : Transaction) (w : Word) : (s.completed t w).pending = s.pending := by
  unfold State.completed
  repeat' split
  all_goals simp

theorem stateUpdated_pending (s : State) (t : Transaction) (r : WordResult) :
    (s.stateUpdated t r).pending = s.pending := by
  unfold State.stateUpdated
  repeat' split
  · simp
  · exact completed_pending ..
  · simp

theorem releaseDone_pending (s : State) (t : Transaction) (r : WordResult) :
    (s.releaseDone t r).pending = s.pending := by
  cases r <;> simp [State.releaseDone]

/-! ### Every command -/

theorem ite_pending {p : Prop} [Decidable p] {t u : State} (yes : t.pending = s.pending)
    (no : u.pending = s.pending) : (if p then t else u).pending = s.pending :=
  keeps_ite (fun v => v.pending = s.pending) (fun _ => yes) no

theorem effect_pending (before : State) (c : Instr) (s : State) : (State.effect before c s).pending = s.pending := by
  cases c with
  | start => exact doStart_pending s
  | stop => exact doStop_pending s
  | halt => exact doHalt_pending s
  | skip => exact doSkip_pending s
  | look => exact doLook_pending s
  | reset => exact resetTo_pending ..
  | chainWrite v => exact writeChain_pending s v
  | attnWrite v => exact writeAttn_pending s v
  | attnEnWrite v => exact writeAttnEn_pending s v
  | registerWrite offset bytes v => exact writeRegister_pending s offset bytes v
  | pinResetAssert => exact resetTo_pending ..
  | pinResetRelease => rfl
  | encoderStep d => exact encoderStepped_pending _ d
  | illegalTransition => rfl
  | markActiveEdge => exact ite_pending rfl rfl
  | markInactiveEdge => exact ite_pending (by simp) rfl
  | headPresentInactive => exact ite_pending (headLoss_pending s) rfl
  | headPresentActive => exact ite_pending rfl (ite_pending (by simp) rfl)
  | stillTimerExpiry => exact ite_pending (by simp) rfl
  | warmupExpiry => exact ite_pending (by simp) rfl
  | firePulse =>
    simp only [State.effect]
    split
    · exact (rest_pending _).trans (fired_pending ..)
    all_goals rfl
  | ticklePulse =>
    simp only [State.effect]
    split <;> rfl
  | tickleIdleExpiry => exact ite_pending (by simp) rfl
  | periodTimerExpiry => exact ite_pending (by simp) rfl
  | pollTimerExpiry => exact ite_pending (by simp) rfl
  | dividerExpiry => exact orStay_pending fun _ => tryDivider_pending
  | entryReadDone r batch => exact endBuilderRead_pending s _ fun u => by simp
  | rowReadDone r => exact endBuilderRead_pending s _ fun u => by simp
  | overlayReadDone r => exact endBuilderRead_pending s _ fun u => by simp
  | tableReadDone r => exact endBuilderRead_pending s _ fun u => by simp
  | setupBlockReadDone r => exact endBuilderRead_pending s _ fun u => by simp
  | mapReadDone r => exact endBuilderRead_pending s _ fun u => by simp
  | linkReadDone r => exact endTransaction_pending s _ _ fun _ u => linkRead_pending u r
  | stateReadDone r => exact endTransaction_pending s _ _ fun _ u => stateRead_pending u r
  | headerReadDone r => exact endTransaction_pending s _ _ fun _ u => headerRead_pending u r
  | takeExchangeDone r => exact endTransaction_pending s _ _ fun _ u => exchangeDone_pending _ r
  | resultWriteDone r => exact endTransaction_pending s _ _ fun tx u => resultWritten_pending u tx r
  | stateUpdateDone r => exact endTransaction_pending s _ _ fun tx u => stateUpdated_pending u tx r
  | releaseDone r => exact endTransaction_pending s _ _ fun tx u => releaseDone_pending u tx r
  | portGrant => exact orStay_pending fun _ => tryGrant_pending
  | chainLook => exact orStay_pending fun _ => tryLook_pending
  | heldItemEnter => exact orStay_pending fun _ => tryHeld_pending
  | stageWaitEnd => exact orStay_pending fun _ => tryStage_pending
  | freeStart => exact orStay_pending fun _ => tryFree_pending
  | endTaken => exact orStay_pending fun _ => tryEnd_pending
  | completionBegin x => exact orStay_pending fun _ => tryCompletion_pending
  | drainEnd => exact orStay_pending fun _ => tryDrainEnd_pending

theorem pinEvent_answers {pins : Pins} {f : State → State} (effect : ∀ t : State, (f t).pending = t.pending) :
    ∃ t, pinEvent s pins f = .next t ∧ t.pending = s.pending :=
  ⟨_, rfl, ite_pending rfl (effect _)⟩

theorem execPinResetRelease_answers (s : State) : ∃ t, execPinResetRelease s = .next t ∧ t.pending = s.pending :=
  ⟨_, rfl, ite_pending rfl rfl⟩

end

/-- Settles O2: the release of RESET by its two answers, every other command as an event with its effect. -/
theorem everyCommandAnswers : Obligations.EveryCommandAnswers := by
  intro c s
  by_cases release : c = .pinResetRelease
  · subst release
    exact execPinResetRelease_answers s
  · obtain ⟨pins, isEvent⟩ := exec_eq_pinEvent release s
    rw [isEvent]
    exact pinEvent_answers (effect_pending s c)

end Sys2Proof.Machine
